-- ==== Sys2Proof/Word.lean ====
section
/-!
DEFINITION. The fixed widths of the Frame Encoder (spec/00_scope.md R6, R7, R8): bytes, the 64-bit length,
the 32-bit command word and the 32-bit carrier of a mask key. All numbers are unsigned.
-/

namespace Sys2Proof

/-- A byte; bit 0 is the least significant bit (R7). -/
abbrev Byte := BitVec 8

/-- A payload length, `u64` (R46, R51). -/
abbrev Len := BitVec 64

/-- The 32-bit carrier of a mask key: `k0` in bits 31:24, `k3` in bits 7:0 (R17, R34). -/
abbrev Key := BitVec 32

end Sys2Proof
end

