-- ==== Sys2Proof/Syntax.lean ====
section
/-!
DEFINITION. The instructions: one constructor for each row of spec/opcode_table.json. The four commands are
what HOST presents (spec/30_encoding.md R46 to R52). The nine header forms are the bytes a frame's header is
made of (R53 to R59): the block emits them and a checker of the output stream reads them (R63).
-/

namespace Sys2Proof

/-- CLOSE's CP, CV and CODE (R50). CV and CODE are ignored when CP = 0 (R52), so `absent` carries neither. -/
inductive CloseCode where
  /-- CP = 0: no code is supplied -/
  | absent
  /-- CP = 1: CODE, and CV the external validator's verdict on it -/
  | given (code : BitVec 16) (valid : Bool)
deriving DecidableEq, Repr, Inhabited

/-- The instructions. A field an operation ignores (R52) is no argument of its constructor. -/
inductive Instr where
  /-- SEND (R96) -/
  | send (fin bin cmp msk ro cb : Bool) (len : Len) (buf : Nat)
  /-- PING (R98) -/
  | ping (msk ro cb : Bool) (len : Len) (buf : Nat)
  /-- PONG (R99) -/
  | pong (msk ro cb : Bool) (len : Len) (buf : Nat)
  /-- CLOSE (R100) -/
  | close (msk cb : Bool) (code : CloseCode) (len : Len) (buf : Nat)
  /-- header byte 0 with opcode 0x0 (R59) -/
  | frameContinuation (fin rsv1 : Bool)
  /-- header byte 0 with opcode 0x1 (R59) -/
  | frameText (fin rsv1 : Bool)
  /-- header byte 0 with opcode 0x2 (R59) -/
  | frameBinary (fin rsv1 : Bool)
  /-- header byte 0 of a close frame, 0x88 (R69) -/
  | frameClose
  /-- header byte 0 of a ping frame, 0x89 (R69) -/
  | framePing
  /-- header byte 0 of a pong frame, 0x8A (R69) -/
  | framePong
  /-- form L7 (R56): header byte 1 holds the length; the mask key follows iff MASK = 1 (R57) -/
  | lenL7 (len7 : BitVec 7) (key : Option Key)
  /-- form L16 (R56): marker 126 and `BE16(n)`; the mask key follows iff MASK = 1 (R57) -/
  | lenL16 (n : BitVec 16) (key : Option Key)
  /-- form L64 (R56): marker 127 and `BE64(n)`; the mask key follows iff MASK = 1 (R57) -/
  | lenL64 (n : BitVec 64) (key : Option Key)
deriving DecidableEq, Repr

/-- What stands on the command port: the triple `(CMD, LEN, BUF)` of R46. BUF is an `ADDR_W`-bit address,
held as a natural number because `ADDR_W` is open. Log entry 11. -/
structure Command where
  cmd : BitVec 32
  len : Len
  buf : Nat
deriving DecidableEq, Repr, Inhabited

/-- What a decoder is given: a command from the command port, byte 0 of a frame, or a frame's bytes from byte 1
on. The place the words come from says which of the three formats of the table applies. -/
inductive Words where
  /-- format CMD32 -/
  | command (c : Command)
  /-- format HDR0 -/
  | header0 (b : Byte)
  /-- format HDR1: byte 1 and the bytes that follow it -/
  | header1 (bs : List Byte)
deriving DecidableEq, Repr

/-- Why words decode to no instruction. -/
inductive DecodeError where
  /-- a command with one of CMD bits 15:10 set (R61) -/
  | reservedBits
  /-- byte 0 with RSV2 or RSV3 set: never produced (R60) -/
  | reservedRsv
  /-- byte 0 with an opcode that no frame of the block has (R59, R60) -/
  | unusedOpcode
  /-- byte 0 of a control frame that is not final or is marked compressed: never produced (R69, R104) -/
  | controlForm
  /-- fewer bytes than the header needs -/
  | truncated
deriving DecidableEq, Repr

end Sys2Proof
end

