-- ==== Sys2Proof/WellFormed.lean ====
section
/-!
DEFINITION. Which instructions the encodings of spec/30_encoding.md can carry, and which header forms the block
can emit (R56, R60). A register or field width is carried by the types; what is left is checked here.
-/

namespace Sys2Proof

/-- Well-formed: a length of form L7 is no marker, `len7` is 126 or 127 only in the forms L16 and L64 (R55,
R56). Every other field takes every value of its width. -/
def Instr.wf : Instr → Bool
  | .lenL7 len7 _ => len7.toNat < 126
  | _ => true

/-- A header form the block can emit: the length forms are minimal (R56, R60). A checker reads the others too
(R63 looks at `len7` alone), so this is no condition on reading. -/
def Instr.minimal : Instr → Bool
  | .lenL7 len7 _ => len7.toNat < 126
  | .lenL16 n _ => 126 ≤ n.toNat
  | .lenL64 n _ => 65536 ≤ n.toNat
  | _ => true

end Sys2Proof
end

