-- ==== Sys2Proof/Decode.lean ====
section
/-!
DEFINITION. The decoder, total on any words and rejecting by name, and after it the encoder, both written from
spec/30_encoding.md R46 to R61 and spec/opcode_table.json; before them the byte-order helpers both use
(spec/20_memory.md R34).
-/

namespace Sys2Proof

/-! ### Byte order (R8, R34) -/

/-- `BE16(v) = [v[15:8], v[7:0]]` (R8, R74). -/
def be16 (v : BitVec 16) : List Byte :=
  [v.extractLsb' 8 8, v.extractLsb' 0 8]

/-- `BE64(v) = [v[63:56], ..., v[7:0]]` (R8). -/
def be64 (v : BitVec 64) : List Byte :=
  [v.extractLsb' 56 8, v.extractLsb' 48 8, v.extractLsb' 40 8, v.extractLsb' 32 8,
   v.extractLsb' 24 8, v.extractLsb' 16 8, v.extractLsb' 8 8, v.extractLsb' 0 8]

/-- The four bytes `k0 k1 k2 k3` of a key (R34, R70). -/
def keyBytes (k : Key) : List Byte :=
  [k.extractLsb' 24 8, k.extractLsb' 16 8, k.extractLsb' 8 8, k.extractLsb' 0 8]

/-- The key whose bytes are `k0 k1 k2 k3` (R34). -/
def keyOfBytes (k0 k1 k2 k3 : Byte) : Key :=
  k0 ++ k1 ++ k2 ++ k3

/-- The mask key as it stands in a header: four bytes iff MASK = 1 (R57). -/
def keyField (key : Option Key) : List Byte :=
  match key with
  | none => []
  | some k => keyBytes k

/-! ### The command word (R46 to R52, R61) -/

/-- CMD[15:10] is not 0 (R61). -/
def reservedSet (cmd : BitVec 32) : Bool :=
  cmd.extractLsb' 10 6 != 0#6

/-- CP, CV and CODE of a CLOSE (R50, R52). -/
def decodeCloseCode (cmd : BitVec 32) : CloseCode :=
  if cmd.getLsbD 8 then .given (cmd.extractLsb' 16 16) (cmd.getLsbD 9) else .absent

/-- The command on the port: refused if a reserved bit is set (R61), else the operation OP selects (R47) with the
fields it uses (R48 to R52). -/
def decodeCommand (c : Command) : Except DecodeError Instr :=
  if reservedSet c.cmd then .error .reservedBits
  else
    match c.cmd.getLsbD 1, c.cmd.getLsbD 0 with
    | false, false =>
      .ok (.send (c.cmd.getLsbD 2) (c.cmd.getLsbD 3) (c.cmd.getLsbD 4) (c.cmd.getLsbD 5) (c.cmd.getLsbD 6)
        (c.cmd.getLsbD 7) c.len c.buf)
    | false, true => .ok (.ping (c.cmd.getLsbD 5) (c.cmd.getLsbD 6) (c.cmd.getLsbD 7) c.len c.buf)
    | true, false => .ok (.pong (c.cmd.getLsbD 5) (c.cmd.getLsbD 6) (c.cmd.getLsbD 7) c.len c.buf)
    | true, true => .ok (.close (c.cmd.getLsbD 5) (c.cmd.getLsbD 7) (decodeCloseCode c.cmd) c.len c.buf)

/-! ### The frame header (R53 to R59) -/

/-- Header byte 0 (R54): FIN bit 7, RSV1 bit 6, RSV2 and RSV3 bits 5 and 4, the opcode bits 3:0; the bytes the
block never emits (R60, R69) are rejected. -/
def decodeHeader0 (b : Byte) : Except DecodeError Instr :=
  if b.extractLsb' 4 2 != 0#2 then .error .reservedRsv
  else if b.extractLsb' 0 4 = 0x0#4 then .ok (.frameContinuation (b.getLsbD 7) (b.getLsbD 6))
  else if b.extractLsb' 0 4 = 0x1#4 then .ok (.frameText (b.getLsbD 7) (b.getLsbD 6))
  else if b.extractLsb' 0 4 = 0x2#4 then .ok (.frameBinary (b.getLsbD 7) (b.getLsbD 6))
  else if b = 0x88#8 then .ok .frameClose
  else if b = 0x89#8 then .ok .framePing
  else if b = 0x8A#8 then .ok .framePong
  else if b.extractLsb' 0 4 = 0x8#4 ∨ b.extractLsb' 0 4 = 0x9#4 ∨ b.extractLsb' 0 4 = 0xA#4 then
    .error .controlForm
  else .error .unusedOpcode

/-- The mask key before the payload, four bytes iff MASK = 1 (R57), and the bytes after it. -/
def takeKey (masked : Bool) (bs : List Byte) : Except DecodeError (Option Key × List Byte) :=
  match masked, bs with
  | false, bs => .ok (none, bs)
  | true, k0 :: k1 :: k2 :: k3 :: rest => .ok (some (keyOfBytes k0 k1 k2 k3), rest)
  | true, _ => .error .truncated

/-- A header from byte 1 on (R55 to R57, R63), and the bytes after it: `len7` 126 and 127 are the markers of the
forms L16 and L64, any other value is the length itself. -/
def decodeHeader1 (bs : List Byte) : Except DecodeError (Instr × List Byte) :=
  match bs with
  | [] => .error .truncated
  | b :: bs =>
    if b.extractLsb' 0 7 = 126#7 then
      match bs with
      | b0 :: b1 :: bs =>
        match takeKey (b.getLsbD 7) bs with
        | .ok (key, rest) => .ok (.lenL16 (b0 ++ b1) key, rest)
        | .error e => .error e
      | _ => .error .truncated
    else if b.extractLsb' 0 7 = 127#7 then
      match bs with
      | b0 :: b1 :: b2 :: b3 :: b4 :: b5 :: b6 :: b7 :: bs =>
        match takeKey (b.getLsbD 7) bs with
        | .ok (key, rest) => .ok (.lenL64 (b0 ++ b1 ++ b2 ++ b3 ++ b4 ++ b5 ++ b6 ++ b7) key, rest)
        | .error e => .error e
      | _ => .error .truncated
    else
      match takeKey (b.getLsbD 7) bs with
      | .ok (key, rest) => .ok (.lenL7 (b.extractLsb' 0 7) key, rest)
      | .error e => .error e

/-- The decoder. Bytes after a header are no part of the instruction. -/
def decode (w : Words) : Except DecodeError Instr :=
  match w with
  | .command c => decodeCommand c
  | .header0 b => decodeHeader0 b
  | .header1 bs =>
    match decodeHeader1 bs with
    | .ok (i, _) => .ok i
    | .error e => .error e

/-! ### The encoder -/

/-- One bit of a word, at its place: `v << s`. -/
def bitAt (b : Bool) (s : Nat) : BitVec 32 :=
  if b then 1#32 <<< s else 0#32

/-- CP, CV and CODE at their places in CMD (R46). -/
def encodeCloseCode (c : CloseCode) : BitVec 32 :=
  match c with
  | .absent => 0#32
  | .given code valid => bitAt true 8 ||| bitAt valid 9 ||| (code.setWidth 32 <<< 16)

/-- Header byte 0 is `(FIN << 7) | (RSV1 << 6) | (RSV2 << 5) | (RSV3 << 4) | opcode`, RSV2 = RSV3 = 0 (R54). -/
def headerByte0 (fin rsv1 : Bool) (opcode : BitVec 4) : Byte :=
  BitVec.ofBool fin ++ BitVec.ofBool rsv1 ++ 0#2 ++ opcode

/-- Header byte 1 is `(MASK << 7) | len7` (R55). -/
def headerByte1 (masked : Bool) (len7 : BitVec 7) : Byte :=
  BitVec.ofBool masked ++ len7

/-- The words of an instruction. A field the operation ignores is written 0. -/
def encode (i : Instr) : Words :=
  match i with
  | .send fin bin cmp msk ro cb len buf =>
    .command ⟨bitAt fin 2 ||| bitAt bin 3 ||| bitAt cmp 4 ||| bitAt msk 5 ||| bitAt ro 6 ||| bitAt cb 7, len, buf⟩
  | .ping msk ro cb len buf => .command ⟨1#32 ||| bitAt msk 5 ||| bitAt ro 6 ||| bitAt cb 7, len, buf⟩
  | .pong msk ro cb len buf => .command ⟨2#32 ||| bitAt msk 5 ||| bitAt ro 6 ||| bitAt cb 7, len, buf⟩
  | .close msk cb code len buf =>
    .command ⟨3#32 ||| bitAt msk 5 ||| bitAt cb 7 ||| encodeCloseCode code, len, buf⟩
  | .frameContinuation fin rsv1 => .header0 (headerByte0 fin rsv1 0x0#4)
  | .frameText fin rsv1 => .header0 (headerByte0 fin rsv1 0x1#4)
  | .frameBinary fin rsv1 => .header0 (headerByte0 fin rsv1 0x2#4)
  | .frameClose => .header0 (headerByte0 true false 0x8#4)
  | .framePing => .header0 (headerByte0 true false 0x9#4)
  | .framePong => .header0 (headerByte0 true false 0xA#4)
  | .lenL7 len7 key => .header1 (headerByte1 key.isSome len7 :: keyField key)
  | .lenL16 n key => .header1 (headerByte1 key.isSome 126#7 :: be16 n ++ keyField key)
  | .lenL64 n key => .header1 (headerByte1 key.isSome 127#7 :: be64 n ++ keyField key)

/-- How many bytes of the output stream a header form takes: byte 0 is one byte; byte 1 brings the extended
length (0, 2 or 8 bytes, R56) and the mask key (0 or 4 bytes, R57) with it. A command takes none. -/
def headerSize (i : Instr) : Nat :=
  match i with
  | .send .. | .ping .. | .pong .. | .close .. => 0
  | .frameContinuation .. | .frameText .. | .frameBinary .. | .frameClose | .framePing | .framePong => 1
  | .lenL7 _ key => 1 + (keyField key).length
  | .lenL16 _ key => 3 + (keyField key).length
  | .lenL64 _ key => 9 + (keyField key).length

/-! ### The words of the opcode table -/

/-- The bytes that follow a table word of 8 bits: the longest header from byte 1 on has 13 bytes (R58), and the
bits above the word are 0. -/
def zeroTail : List Byte := List.replicate 12 0#8

/-- The instruction of a table word: a row of 32 bits is a command with LEN = 0 and BUF = 0; a row of 8 bits is
byte 0 of a frame if it is one of those bytes, else byte 1 (the table does not say in the word; log entry 10). -/
def decodeTableWord (nbits w : Nat) : Option Instr :=
  if nbits ≤ 8 then
    match decode (.header0 (BitVec.ofNat 8 w)) with
    | .ok i => some i
    | .error _ =>
      match decode (.header1 (BitVec.ofNat 8 w :: zeroTail)) with
      | .ok i => some i
      | .error _ => none
  else
    match decode (.command ⟨BitVec.ofNat 32 w, 0#64, 0⟩) with
    | .ok i => some i
    | .error _ => none

end Sys2Proof
end

