-- ==== Sys2Proof/Config.lean ====
section
/-!
DEFINITION. The configuration parameters of an instance (spec/00_scope.md R6) and the free values: what the
spec leaves open. A free value is an opaque constant: no proof can learn what it is.
-/

namespace Sys2Proof

/-- `MASK_KEY_POLICY` (R6, R71): a fresh key for each frame, or one key cached for the instance. -/
inductive MaskKeyPolicy where
  | perFrame
  | cached
deriving DecidableEq, Repr, Inhabited

/-- `FIFO_DEPTH` (R6, R21): unbounded, or a number of jobs of at least 1; `bounded m` is the depth `m + 1`. -/
inductive FifoDepth where
  | unbounded
  | bounded (m : Nat)
deriving DecidableEq, Repr, Inhabited

/-- The configuration of one instance, fixed at its creation (R6, R23, R124). -/
structure Params where
  /-- `MERGE_THRESHOLD` -/
  mergeThreshold : Nat
  /-- `MASK_KEY_POLICY` -/
  maskKeyPolicy : MaskKeyPolicy
  /-- `FIFO_DEPTH` -/
  fifoDepth : FifoDepth
  /-- `ADDR_W`: the payload memory has `2 ^ addrW` bytes -/
  addrW : Nat
deriving DecidableEq, Repr, Inhabited

/-- TRANSPORT's answer to one write (R26, R90). -/
inductive Answer where
  | ok
  | err
deriving DecidableEq, Repr, Inhabited

/-- The agents that take steps of their own (spec/92_eei_decisions.md D1, and the checker of R63). ENTROPY
answers inside ENC's step (R27) and so takes no turn. -/
inductive Agent where
  | host
  | enc
  | drain
  | transport
  | reader
deriving DecidableEq, Repr, Inhabited

/-- `MASK_KEY_POLICY` is OPEN (R6, D4). Log entry 2. -/
opaque Config.maskKeyPolicy : MaskKeyPolicy

/-- `FIFO_DEPTH` is OPEN (R6, D16). Log entry 2. -/
opaque Config.fifoDepth : FifoDepth

/-- `ADDR_W` is OPEN (R6, D21). Log entry 2. -/
opaque Config.addrW : Nat

/-- ENTROPY's answers, `Draw_key()`: the n-th draw, by no law (R70). Log entry 8. -/
opaque Config.entropy : Nat → Key

/-- TRANSPORT's answers, `Draw_write()`: the answer to the n-th write, by no law (R90). Log entry 8. -/
opaque Config.answer : Nat → Answer

/-- The agent whose turn the n-th step gives next: the interleaving and the delays are free (R113, R133, D1).
Log entry 9. -/
opaque Config.schedule : Nat → Agent

/-- The parameters of this hardware as R6's table gives them. -/
def Config.params : Params where
  mergeThreshold := 32768
  maskKeyPolicy := Config.maskKeyPolicy
  fifoDepth := Config.fifoDepth
  addrW := Config.addrW

end Sys2Proof
end

