-- ==== Sys2Proof/Machine/State.lean ====
section
/-!
DEFINITION. The state of one encoder instance with its ports, the payload memory and the agents around it, as plain
data (spec/10_state.md), its value at reset (R29, R123), and the reasons a step can stop.
-/

namespace Sys2Proof.Machine

/-- A status code of the status ports (R106). `compressionFailure` is never driven by this block (R109). -/
inductive Status where
  | ok
  | invalidCloseCode
  | transportWriteFailure
  | compressionFailure
deriving DecidableEq, Repr, Inhabited

/-- The transport writes of one frame: one write, or the header and then the payload (R20, R33). -/
inductive Writes where
  | single (frame : List Byte)
  | split (hdr body : List Byte)
deriving DecidableEq, Repr, Inhabited

/-- A range of payload memory, `[base, base + size)`. -/
structure Range where
  base : Nat
  size : Nat
deriving DecidableEq, Repr, Inhabited

/-- A frame job (R20): its writes and its CB bit. `src` is the model's own: the payload range the job's command
named, which HOST must leave alone until the job's last write is answered (R129). Log entry 6. -/
structure Job where
  writes : Writes
  cb : Bool
  src : Range
deriving DecidableEq, Repr, Inhabited

/-- What HOST does next: present a command (R24), or store bytes into the payload memory it owns (R31, R44). -/
inductive HostAction where
  | present (c : Command)
  | store (addr : Nat) (bytes : List Byte)
deriving DecidableEq, Repr

/-- What the checker of the output stream expects next (R53, R63). -/
inductive Phase where
  | header0
  | header1
  | payload
  /-- it met a byte 0 that no frame of the block has, and reads no further -/
  | lost
deriving DecidableEq, Repr, Inhabited

/-- The checker of the output stream (R63): the bytes it has not read yet, what it expects, and what it has told
of the last frame. The model's own registers. Log entry 7. -/
structure Reader where
  input : List Byte
  phase : Phase
  /-- FIN of the last byte 0 read -/
  fin : Bool
  /-- RSV1 of the last byte 0 read -/
  rsv1 : Bool
  /-- the opcode of the last byte 0 read -/
  opcode : BitVec 4
  /-- the mask key of the last header, if MASK was 1 -/
  key : Option Key
  /-- the payload length `n` of the last header -/
  len : Len
  /-- the header length `H` of the last header (R58) -/
  headerLen : Nat
  /-- the last payload, unmasked with its header's key (R67) -/
  payload : List Byte
deriving DecidableEq, Repr

/-- The payload memory (R31): the bytes that differ from what an unlisted address reads as, by rising address. -/
abbrev Memory := List Host.Cell

/-- The machine. -/
@[ext]
structure State where
  /-- the configuration, written by no step (R6, R23, R124) -/
  cfg : Params
  /-- `S.first_fragment`: true is `MessageStart`, false is `MessageMid` (R16) -/
  firstFragment : Bool
  /-- `S.mask_key` (R17) -/
  maskKey : Key
  /-- `S.mask_key_valid` (R18) -/
  maskKeyValid : Bool
  /-- `S.fifo`, the head first (R20) -/
  fifo : List Job
  /-- `S.drain_next`: which write of the head job is next, false 0, true 1 (R22) -/
  drainNext : Bool
  /-- `S.drain_busy`: a write is outstanding at the transport (R22) -/
  drainBusy : Bool
  /-- the command on the command port (R24) -/
  port : Option Command
  /-- what ENC has driven on the command-response port, the oldest first (R25a) -/
  responses : List Status
  /-- what DRAIN has driven on the completion port (R25b) -/
  completions : List Status
  /-- what DRAIN has driven on the error-event port (R25c) -/
  errorEvents : List Status
  /-- the writes DRAIN has presented on the transport port (R26, R33) -/
  writes : List (List Byte)
  /-- TRANSPORT's answers to them (R26, R90) -/
  answers : List Answer
  /-- the payload memory (R31) -/
  mem : Memory
  /-- HOST's coming actions; the model's own. Log entry 5. -/
  host : List HostAction
  /-- the checker of the output stream; the model's own. Log entry 7. -/
  reader : Reader
  /-- how many keys ENTROPY has been asked for; the model's own. Log entry 8. -/
  draws : Nat
  /-- how many steps were taken; the model's own. Log entry 9. -/
  steps : Nat
  /-- the agent whose step is next; the model's own. Log entry 9. -/
  turn : Agent
deriving DecidableEq, Repr

/-- The reasons a step stops with a fault: HOST did what the spec gives it no move for. No instruction raises one.
-/
inductive Fault where
  /-- HOST's step: a store outside the `2 ^ ADDR_W` bytes of the payload memory (R31). Safe: the address does not
  exist. -/
  | hostStoreOutside
  /-- HOST's step: a store into the payload range of a command on the port or of a job in the FIFO (R37, R129: "A
  model gives HOST no move that breaks it"). Safe for a HOST that keeps its duty. -/
  | hostStoreInFlight
deriving DecidableEq, Repr

/-- The reasons a step gives no meaning. -/
inductive Refusal where
  /-- an instruction with no meaning in this model; no arm of `exec` answers so. Safe. -/
  | notModelled (mnemonic : String)
  /-- ENC's step: the command on the port has one of CMD bits 15:10 set (R61, R122). Safe: the whole run satisfies
  no claim. -/
  | reservedBits
deriving DecidableEq, Repr

/-- The checker before it has read anything. -/
def Reader.reset : Reader where
  input := []
  phase := .header0
  fin := false
  rsv1 := false
  opcode := 0#4
  key := none
  len := 0#64
  headerLen := 0
  payload := []

/-- A newly created instance (R29, R123): `MessageStart`, no key, an empty FIFO, nothing outstanding, no command
taken and no port driven. `maskKey` (log entry 3) and the payload memory (log entry 4) have no value in the spec. -/
def State.reset : State where
  cfg := Config.params
  firstFragment := true
  maskKey := 0#32
  maskKeyValid := false
  fifo := []
  drainNext := false
  drainBusy := false
  port := none
  responses := []
  completions := []
  errorEvents := []
  writes := []
  answers := []
  mem := []
  host := []
  reader := Reader.reset
  draws := 0
  steps := 0
  turn := .enc

end Sys2Proof.Machine
end

