-- ==== Sys2Proof/Machine/Flags.lean ====
section
/-!
DEFINITION. The choice of a frame's opcode and flags: the fragmentation state machine (spec/42_message_ops.md R93 to
R97), the opcodes the block emits (R59) and the codes of the statuses (R106).
-/

namespace Sys2Proof.Machine

/-- The codes of the status ports (R106). -/
def statusCode (st : Status) : BitVec 2 :=
  match st with
  | .ok => 0#2
  | .invalidCloseCode => 1#2
  | .transportWriteFailure => 2#2
  | .compressionFailure => 3#2

/-- Opcode 0x0, a continuation frame (R59). -/
def opContinuation : BitVec 4 := 0x0#4
/-- Opcode 0x1, a text frame (R59). -/
def opText : BitVec 4 := 0x1#4
/-- Opcode 0x2, a binary frame (R59). -/
def opBinary : BitVec 4 := 0x2#4
/-- Opcode 0x8, a close frame (R59). -/
def opClose : BitVec 4 := 0x8#4
/-- Opcode 0x9, a ping frame (R59). -/
def opPing : BitVec 4 := 0x9#4
/-- Opcode 0xA, a pong frame (R59). -/
def opPong : BitVec 4 := 0xA#4

/-- The opcode of a SEND: the real opcode in `MessageStart`, continuation in `MessageMid`, whatever BIN is (R94,
R96). -/
def sendOpcode (firstFragment bin : Bool) : BitVec 4 :=
  if firstFragment then (if bin then opBinary else opText) else opContinuation

/-- `S.first_fragment` after a SEND: its FIN, from either state (R94, R96). -/
def nextFragment (_firstFragment fin : Bool) : Bool :=
  fin

/-- The opcodes of control frames (R12). -/
def isControl (opcode : BitVec 4) : Bool :=
  opcode == opClose || opcode == opPing || opcode == opPong

/-- The opcodes of data frames (R12). -/
def isData (opcode : BitVec 4) : Bool :=
  opcode == opContinuation || opcode == opText || opcode == opBinary

end Sys2Proof.Machine
end

