-- ==== Sys2Proof/Machine/Frame.lean ====
section
/-!
DEFINITION. The frame primitives (spec/40_frame_primitives.md R64 to R75), the frame on the wire (R53), the merge
decision (R81), and how a checker tells a frame from its bytes (R63). Pure functions: none reads the state (R75).
-/

namespace Sys2Proof.Machine

/-- `EncodeLength(n)` (R64): the 7-bit length field and the extended length. -/
def encodeLength (n : Len) : BitVec 7 × List Byte :=
  if n.toNat < 126 then (n.extractLsb' 0 7, [])
  else if n.toNat ≤ 65535 then (126#7, be16 (n.extractLsb' 0 16))
  else (127#7, be64 n)

/-- Byte `i mod 4` of a key (R66). -/
def keyLane (k : Key) (i : Nat) : Byte :=
  match i % 4 with
  | 0 => k.extractLsb' 24 8
  | 1 => k.extractLsb' 16 8
  | 2 => k.extractLsb' 8 8
  | _ => k.extractLsb' 0 8

/-- `Mask` from payload offset `i` on. -/
def maskFrom (k : Key) (i : Nat) (p : List Byte) : List Byte :=
  match p with
  | [] => []
  | b :: p => (b ^^^ keyLane k i) :: maskFrom k (i + 1) p

/-- `Mask(p, k)` (R66): `out[i] = p[i] XOR k[i mod 4]`, the offset counted from the first payload byte. -/
def mask (p : List Byte) (k : Key) : List Byte :=
  maskFrom k 0 p

/-- `PackHeader(opcode, fin, rsv1, masked, n, k)` (R68); `key` is `none` for MASK = 0. -/
def packHeader (opcode : BitVec 4) (fin rsv1 : Bool) (n : Len) (key : Option Key) : List Byte :=
  headerByte0 fin rsv1 opcode :: headerByte1 key.isSome (encodeLength n).1 :: (encodeLength n).2 ++ keyField key

/-- The header of an empty frame (R78): no RSV1, and four zero key bytes if masked. -/
def fastHeader (opcode : BitVec 4) (fin masked : Bool) : List Byte :=
  headerByte0 fin false opcode :: headerByte1 masked 0#7 :: (if masked then [0#8, 0#8, 0#8, 0#8] else [])

/-- The payload as it stands in the frame: masked iff there is a key (R82 to R85). -/
def frameBody (p : List Byte) (key : Option Key) : List Byte :=
  match key with
  | none => p
  | some k => mask p k

/-- The buffer-merge decision (R81). -/
def mergeDecision (threshold n : Nat) (masked ro : Bool) : Bool :=
  decide (n < threshold) || (masked && ro)

/-- The transport writes of a non-empty frame (R82 to R84, R86). -/
def frameWrites (merge : Bool) (hdr body : List Byte) : Writes :=
  if merge then .single (hdr ++ body) else .split hdr body

/-- The close payload: `BE16(code) ++ reason`, the code 1000 when none is supplied (R101, R102). -/
def closePayload (code : CloseCode) (reason : List Byte) : List Byte :=
  match code with
  | .absent => be16 1000#16 ++ reason
  | .given code _ => be16 code ++ reason

/-- The writes of a job, in order (R20). -/
def writeList (w : Writes) : List (List Byte) :=
  match w with
  | .single f => [f]
  | .split h b => [h, b]

/-- Write `w` of a job (R88): the index false is 0, true is 1. -/
def writeAt (w : Writes) (i : Bool) : Option (List Byte) :=
  match w, i with
  | .single f, false => some f
  | .single _, true => none
  | .split h _, false => some h
  | .split _ b, true => some b

/-- The bytes a job puts on the output stream (R33). -/
def writeBytes (w : Writes) : List Byte :=
  match w with
  | .single f => f
  | .split h b => h ++ b

/-! ### Telling frames from their bytes (R63) -/

/-- A frame as a checker tells it: the flags and the opcode of byte 0, the mask key if MASK = 1, and the payload
before masking. -/
structure Frame where
  fin : Bool
  rsv1 : Bool
  opcode : BitVec 4
  key : Option Key
  payload : List Byte
deriving DecidableEq, Repr

/-- The payload length a header form tells (R63). -/
def formLength (i : Instr) : Len :=
  match i with
  | .lenL7 len7 _ => len7.setWidth 64
  | .lenL16 n _ => n.setWidth 64
  | .lenL64 n _ => n
  | _ => 0#64

/-- The mask key a header form tells (R57). -/
def formKey (i : Instr) : Option Key :=
  match i with
  | .lenL7 _ key | .lenL16 _ key | .lenL64 _ key => key
  | _ => none

/-- FIN, RSV1 and opcode that a form of byte 0 tells (R54, R59). -/
def formByte0 (i : Instr) : Option (Bool × Bool × BitVec 4) :=
  match i with
  | .frameContinuation fin rsv1 => some (fin, rsv1, opContinuation)
  | .frameText fin rsv1 => some (fin, rsv1, opText)
  | .frameBinary fin rsv1 => some (fin, rsv1, opBinary)
  | .frameClose => some (true, false, opClose)
  | .framePing => some (true, false, opPing)
  | .framePong => some (true, false, opPong)
  | _ => none

/-- The first frame of a stream, with its payload unmasked (R67), and the bytes after it; `none` where the stream
does not begin with a whole frame of the block. -/
def parseFrame (bs : List Byte) : Option (Frame × List Byte) :=
  match bs with
  | [] => none
  | b :: bs =>
    match decodeHeader0 b with
    | .error _ => none
    | .ok i0 =>
      match formByte0 i0, decodeHeader1 bs with
      | some (fin, rsv1, opcode), .ok (i1, rest) =>
        if (formLength i1).toNat ≤ rest.length then
          some (⟨fin, rsv1, opcode, formKey i1, frameBody (rest.take (formLength i1).toNat) (formKey i1)⟩,
            rest.drop (formLength i1).toNat)
        else none
      | _, _ => none

/-- The header the block gives a frame (R68, R78). -/
def frameHeader (f : Frame) : List Byte :=
  if f.payload.length = 0 then fastHeader f.opcode f.fin f.key.isSome
  else packHeader f.opcode f.fin f.rsv1 (BitVec.ofNat 64 f.payload.length) f.key

/-- The bytes of a frame (R53). -/
def frameWire (f : Frame) : List Byte :=
  frameHeader f ++ frameBody f.payload f.key

/-- A frame the block can emit: an opcode of R59's list; control frames final and not compressed (R104); an empty
frame has no RSV1, and the zero key if masked (R78); the length fits 64 bits (R46). -/
def emittable (f : Frame) : Bool :=
  (isData f.opcode || (isControl f.opcode && f.fin && !f.rsv1))
    && (decide (f.payload.length ≠ 0) || (!f.rsv1 && (f.key == none || f.key == some 0#32)))
    && decide (f.payload.length < 2 ^ 64)

end Sys2Proof.Machine
end

