-- ==== Sys2Proof/Machine/Memory.lean ====
section
/-!
DEFINITION. The payload memory (spec/20_memory.md): reading and writing one byte in the canonical form, and the
two whole-range accesses `MemRead` and `MemWrite` (R9, R36).
-/

namespace Sys2Proof.Machine

/-- What an unlisted address reads as: the spec gives the memory no contents. Log entry 4 (DESIGN CHOICE). -/
def unlistedByte : Byte := 0#8

/-- The byte at an address. -/
def readByte (m : Memory) (a : Nat) : Byte :=
  match m with
  | [] => unlistedByte
  | (k, v) :: m => if k = a then v else readByte m a

/-- A cell, listed only if it differs from what an unlisted address reads as. -/
def listCell (a : Nat) (b : Byte) (m : Memory) : Memory :=
  if b = unlistedByte then m else (a, b) :: m

/-- The memory with the byte at an address replaced, in the canonical form. -/
def writeByte (m : Memory) (a : Nat) (b : Byte) : Memory :=
  match m with
  | [] => listCell a b []
  | (k, v) :: m =>
    if k < a then (k, v) :: writeByte m a b
    else if k = a then listCell a b m
    else listCell a b ((k, v) :: m)

/-- `MemRead(addr, n)`: the bytes at `addr .. addr + n - 1`, in rising order (R9, R34). -/
def memRead (m : Memory) (a n : Nat) : List Byte :=
  match n with
  | 0 => []
  | n + 1 => readByte m a :: memRead m (a + 1) n

/-- `MemWrite(addr, n, v)`: the bytes of `v` at `addr .. addr + n - 1` (R9). -/
def memWrite (m : Memory) (a : Nat) (bs : List Byte) : Memory :=
  match bs with
  | [] => m
  | b :: bs => memWrite (writeByte m a b) (a + 1) bs

/-- Every address of the list is at least `lo`, they rise strictly, and no cell holds the unlisted byte. -/
def sortedFrom (lo : Nat) (m : Memory) : Bool :=
  match m with
  | [] => true
  | (k, v) :: m => decide (lo ≤ k) && (v != unlistedByte) && sortedFrom (k + 1) m

/-- The canonical form: equal memories are equal lists. -/
def Memory.wf (m : Memory) : Bool :=
  sortedFrom 0 m

end Sys2Proof.Machine
end

