-- ==== Sys2Proof/Machine/Operands.lean ====
section
/-!
DEFINITION. The operands LEN and BUF of a command (spec/30_encoding.md R51): range admission (spec/20_memory.md R32),
the payload read at acceptance (R37), and the ranges HOST must leave alone (R129).
-/

namespace Sys2Proof.Machine

/-- Range admission (R32): LEN = 0, or `BUF + LEN <= 2^ADDR_W`, computed without wrap-around. -/
def rangeAdmitted (s : State) (len : Len) (buf : Nat) : Bool :=
  len == 0#64 || decide (buf + len.toNat ≤ 2 ^ s.cfg.addrW)

/-- A CLOSE's payload length `2 + LEN` fits 64 bits (R100, R73). -/
def closeLenFits (len : Len) : Bool :=
  decide (len.toNat ≤ 2 ^ 64 - 3)

/-- The payload of a command, `MemRead(BUF, LEN)` (R51, R96), read at acceptance (R37). -/
def payloadAt (s : State) (len : Len) (buf : Nat) : List Byte :=
  memRead s.mem buf len.toNat

/-- The range a command names (R37). -/
def sourceRange (len : Len) (buf : Nat) : Range :=
  ⟨buf, len.toNat⟩

/-- Two ranges share an address. -/
def overlaps (a b : Range) : Bool :=
  decide (a.base < b.base + b.size) && decide (b.base < a.base + a.size) && a.size != 0 && b.size != 0

/-- The ranges HOST must not write: of the command on the port, and of every job whose last write is not answered
(R37, R129). -/
def inFlight (s : State) : List Range :=
  (match s.port with
    | none => []
    | some c => [sourceRange c.len c.buf]) ++ s.fifo.map Job.src

end Sys2Proof.Machine
end

