-- ==== Sys2Proof/Machine/Ops.lean ====
section
/-!
DEFINITION. The named operations over the state: driving the ports (spec/10_state.md R25, spec/60_exceptions.md R110),
the mask-key source (R71), acceptance (R76), frame-and-send (R87), and the steps of DRAIN, TRANSPORT and HOST (R88 to
R92). The spec has no trap: its error reports are `respond` and `reportFailure`, and there is no return from one (R115).
-/

namespace Sys2Proof.Machine

/-! ### Ports -/

/-- `Respond(status)`: ENC drives the command-response port (R25a). -/
def respond (st : Status) (s : State) : State :=
  { s with responses := s.responses ++ [st] }

/-- `Complete(status)`: DRAIN drives the completion port (R25b). -/
def complete (st : Status) (s : State) : State :=
  { s with completions := s.completions ++ [st] }

/-- `ErrorEvent(status)`: DRAIN drives the error-event port (R25c). -/
def errorEvent (st : Status) (s : State) : State :=
  { s with errorEvents := s.errorEvents ++ [st] }

/-- `Report(status, cb)` (R110): the completion port if `cb = 1`, the error-event port if `cb = 0`. -/
def report (st : Status) (cb : Bool) (s : State) : State :=
  if cb then complete st s else errorEvent st s

/-- The command leaves the port: ENC has taken it (R24). -/
def takeCommand (s : State) : State :=
  { s with port := none }

/-- `Enqueue(job)`: at the tail (R20). -/
def enqueue (j : Job) (s : State) : State :=
  { s with fifo := s.fifo ++ [j] }

/-! ### Mask key (R70 to R72) -/

/-- The key `MaskKey()` returns, given the draw ENTROPY answers if it is asked (R71). -/
def frameKey (draw : Key) (s : State) : Key :=
  match s.cfg.maskKeyPolicy with
  | .perFrame => draw
  | .cached => if s.maskKeyValid then s.maskKey else draw

/-- What `MaskKey()` leaves: under `CACHED` the first call keeps the draw; a call that draws uses one up (R71). -/
def noteKey (draw : Key) (s : State) : State :=
  match s.cfg.maskKeyPolicy with
  | .perFrame => { s with draws := s.draws + 1 }
  | .cached =>
    if s.maskKeyValid then s else { s with maskKey := draw, maskKeyValid := true, draws := s.draws + 1 }

/-! ### Acceptance (R76) -/

/-- What ENC does with a command that has no reserved bit set (R76, steps 2 to 5). -/
inductive Verdict where
  /-- no step, for good: the range or the length is not admitted -/
  | stuck
  /-- answered `INVALID_CLOSE_CODE` -/
  | invalidCode
  /-- no step until DRAIN pops a job -/
  | hold
  /-- performed and answered `OK` -/
  | perform
deriving DecidableEq, Repr

/-- `len(S.fifo) = FIFO_DEPTH` (R21). The depth is at least 1, so an empty FIFO is never full. -/
def fifoFull (s : State) : Bool :=
  match s.fifo with
  | [] => false
  | _ :: js =>
    match s.cfg.fifoDepth with
    | .unbounded => false
    | .bounded m => js.length == m

/-- SEND, PING and PONG: steps 2, 4 and 5 of R76. -/
def acceptance (len : Len) (buf : Nat) (s : State) : Verdict :=
  if !rangeAdmitted s len buf then .stuck
  else if fifoFull s then .hold
  else .perform

/-- CLOSE: steps 2 to 5 of R76; the invalid code is answered before the hold (R113). -/
def closeAcceptance (code : CloseCode) (len : Len) (buf : Nat) (s : State) : Verdict :=
  if !closeLenFits len then .stuck
  else if !rangeAdmitted s len buf then .stuck
  else
    match code with
    | .given _ false => .invalidCode
    | _ => if fifoFull s then .hold else .perform

/-- The end of the acceptance step: a stuck or held command stays on the port and nothing changes (R24, R76); an
invalid code is answered and has no other effect (R107); else the command's effects and the response `OK`. -/
def accept (v : Verdict) (s performed : State) : Host.Outcome State Fault Refusal :=
  match v with
  | .stuck => .next s
  | .hold => .next s
  | .invalidCode => .next (respond .invalidCloseCode (takeCommand s))
  | .perform => .next (respond .ok (takeCommand performed))

/-! ### Frame-and-send (R77 to R87) -/

/-- The non-empty case of R87 for a key already chosen: header, merge decision, in-place write-back, enqueue. -/
def sendFrame (opcode : BitVec 4) (p : List Byte) (wb : Option Nat) (ro fin rsv1 : Bool) (key : Option Key)
    (cb : Bool) (src : Range) (s : State) : State :=
  let merge := mergeDecision s.cfg.mergeThreshold p.length key.isSome ro
  let body := frameBody p key
  let hdr := packHeader opcode fin rsv1 (BitVec.ofNat 64 p.length) key
  let s :=
    match merge, key, wb with
    | false, some _, some a => { s with mem := memWrite s.mem a body }
    | _, _, _ => s
  enqueue ⟨frameWrites merge hdr body, cb, src⟩ s

/-- `FrameAndSend(opcode, p, wb, ro, fin, rsv1, masked, cb)` (R87). `draw` is ENTROPY's answer if it is asked. -/
def frameAndSend (draw : Key) (opcode : BitVec 4) (p : List Byte) (wb : Option Nat) (ro fin rsv1 masked cb : Bool)
    (src : Range) (s : State) : State :=
  match p with
  | [] => enqueue ⟨.single (fastHeader opcode fin masked), cb, src⟩ s
  | _ :: _ =>
    if masked then
      sendFrame opcode p wb ro fin rsv1 (some (frameKey draw s)) cb src (noteKey draw s)
    else
      sendFrame opcode p wb ro fin rsv1 none cb src s

/-! ### DRAIN and TRANSPORT (R88 to R92) -/

/-- DRAIN's issue step (R88); no step while a write is outstanding or nothing is queued. -/
def drainIssue (s : State) : State :=
  if s.drainBusy then s
  else
    match s.fifo with
    | [] => s
    | j :: _ =>
      match writeAt j.writes s.drainNext with
      | none => s
      | some w => { s with writes := s.writes ++ [w], drainBusy := true }

/-- The head job leaves the FIFO. -/
def popJob (s : State) : State :=
  { s with fifo := s.fifo.tail, drainNext := false }

/-- Whether the head job has a write after the outstanding one: `w + 1 < len(J.writes)` (R89). -/
def hasNextWrite (w : Writes) (i : Bool) : Bool :=
  match w, i with
  | .split _ _, false => true
  | _, _ => false

/-- The bytes of an answered write reach the checker of the output stream. Log entry 7. -/
def deliver (bytes : List Byte) (s : State) : State :=
  { s with reader := { s.reader with input := s.reader.input ++ bytes } }

/-- The bytes of the outstanding write. -/
def outstanding (s : State) : List Byte :=
  match s.fifo with
  | [] => []
  | j :: _ =>
    match writeAt j.writes s.drainNext with
    | none => []
    | some w => w

/-- DRAIN's answer step (R89, R91, R92): `a` is TRANSPORT's answer to the outstanding write; no step while none is
outstanding. -/
def drainAnswer (a : Answer) (s : State) : State :=
  if !s.drainBusy then s
  else
    match s.fifo with
    | [] => s
    | j :: _ =>
      let t := { s with drainBusy := false, answers := s.answers ++ [a] }
      match a with
      | .err => report .transportWriteFailure j.cb (popJob t)
      | .ok =>
        let t := deliver (outstanding s) t
        if hasNextWrite j.writes s.drainNext then { t with drainNext := true }
        else if j.cb then complete .ok (popJob t)
        else popJob t

/-! ### HOST (R24, R31, R37, R129) -/

/-- HOST's step: its next action, if the port is free for it. -/
def hostAct (s : State) : Host.Outcome State Fault Refusal :=
  match s.host with
  | [] => .next s
  | .present c :: rest =>
    match s.port with
    | some _ => .next s
    | none => .next { s with port := some c, host := rest }
  | .store a bs :: rest =>
    if 2 ^ s.cfg.addrW < a + bs.length then .fault .hostStoreOutside
    else if (inFlight s).any (overlaps ⟨a, bs.length⟩) then .fault .hostStoreInFlight
    else .next { s with mem := memWrite s.mem a bs, host := rest }

/-! ### The checker of the output stream (R63) -/

/-- The checker reads byte 0 of a frame (R54, R59). -/
def readByte0 (fin rsv1 : Bool) (opcode : BitVec 4) (s : State) : State :=
  { s with reader := { s.reader with
      input := s.reader.input.drop 1, phase := .header1, fin := fin, rsv1 := rsv1, opcode := opcode } }

/-- The checker reads a header from byte 1 on (R63): the payload length `n`, the mask key, and the header length
`H = 2 + E + 4·MASK`, where `size` is the bytes of the header after byte 0. -/
def readLength (n : Len) (key : Option Key) (size : Nat) (s : State) : State :=
  { s with reader := { s.reader with
      input := s.reader.input.drop size, phase := .payload, key := key, len := n, headerLen := 1 + size } }

/-- The checker reads the payload, once all `n` bytes are there, and unmasks it with the header's key (R63, R67). -/
def readPayload (s : State) : State :=
  if s.reader.len.toNat ≤ s.reader.input.length then
    { s with reader := { s.reader with
        input := s.reader.input.drop s.reader.len.toNat
        phase := .header0
        payload := frameBody (s.reader.input.take s.reader.len.toNat) s.reader.key } }
  else s

/-- The checker met a byte 0 that no frame of the block has. -/
def readerLost (s : State) : State :=
  { s with reader := { s.reader with phase := .lost } }

/-- The end of a run (R134): no command on the port, an empty FIFO, no write outstanding. -/
def finished (s : State) : Bool :=
  s.port.isNone && s.fifo.isEmpty && !s.drainBusy

end Sys2Proof.Machine
end

