-- ==== Sys2Proof/Machine/Commands.lean ====
section
/-!
DEFINITION. The meanings of the four commands (spec/42_message_ops.md R96 to R105): what ENC's acceptance step does with
each (R76).
-/

namespace Sys2Proof.Machine

/-- SEND (R96). -/
def execSend (fin bin cmp msk ro cb : Bool) (len : Len) (buf : Nat) (s : State) :
    Host.Outcome State Fault Refusal :=
  accept (acceptance len buf s) s
    (frameAndSend (Config.entropy s.draws) (sendOpcode s.firstFragment bin) (payloadAt s len buf) (some buf) ro fin
      cmp msk cb (sourceRange len buf) { s with firstFragment := nextFragment s.firstFragment fin })

/-- PING (R98). -/
def execPing (msk ro cb : Bool) (len : Len) (buf : Nat) (s : State) : Host.Outcome State Fault Refusal :=
  accept (acceptance len buf s) s
    (frameAndSend (Config.entropy s.draws) opPing (payloadAt s len buf) (some buf) ro true false msk cb
      (sourceRange len buf) s)

/-- PONG (R99). -/
def execPong (msk ro cb : Bool) (len : Len) (buf : Nat) (s : State) : Host.Outcome State Fault Refusal :=
  accept (acceptance len buf s) s
    (frameAndSend (Config.entropy s.draws) opPong (payloadAt s len buf) (some buf) ro true false msk cb
      (sourceRange len buf) s)

/-- CLOSE (R100 to R103): the payload is the block's own, so nothing is written back and RO is 0. -/
def execClose (msk cb : Bool) (code : CloseCode) (len : Len) (buf : Nat) (s : State) :
    Host.Outcome State Fault Refusal :=
  accept (closeAcceptance code len buf s) s
    (frameAndSend (Config.entropy s.draws) opClose (closePayload code (payloadAt s len buf)) none false true false msk
      cb (sourceRange len buf) s)

end Sys2Proof.Machine
end

