-- ==== Sys2Proof/Machine/Headers.lean ====
section
/-!
DEFINITION. The meanings of the header rows of spec/opcode_table.json: what a checker of the output stream tells from
the bytes of a header (spec/30_encoding.md R54 to R59, R63). They act on the checker's registers alone. Log entry 7.
-/

namespace Sys2Proof.Machine

/-- FRAME_CONTINUATION: byte 0 with opcode 0x0 (R59). -/
def execFrameContinuation (fin rsv1 : Bool) (s : State) : Host.Outcome State Fault Refusal :=
  .next (readByte0 fin rsv1 opContinuation s)

/-- FRAME_TEXT: byte 0 with opcode 0x1 (R59). -/
def execFrameText (fin rsv1 : Bool) (s : State) : Host.Outcome State Fault Refusal :=
  .next (readByte0 fin rsv1 opText s)

/-- FRAME_BINARY: byte 0 with opcode 0x2 (R59). -/
def execFrameBinary (fin rsv1 : Bool) (s : State) : Host.Outcome State Fault Refusal :=
  .next (readByte0 fin rsv1 opBinary s)

/-- FRAME_CLOSE: byte 0 is 0x88, final and not compressed (R69, R104). -/
def execFrameClose (s : State) : Host.Outcome State Fault Refusal :=
  .next (readByte0 true false opClose s)

/-- FRAME_PING: byte 0 is 0x89, final and not compressed (R69, R104). -/
def execFramePing (s : State) : Host.Outcome State Fault Refusal :=
  .next (readByte0 true false opPing s)

/-- FRAME_PONG: byte 0 is 0x8A, final and not compressed (R69, R104). -/
def execFramePong (s : State) : Host.Outcome State Fault Refusal :=
  .next (readByte0 true false opPong s)

/-- LEN_L7 (R56): `n` is `len7` itself, `E` = 0. -/
def execLenL7 (len7 : BitVec 7) (key : Option Key) (s : State) : Host.Outcome State Fault Refusal :=
  .next (readLength (len7.setWidth 64) key (headerSize (.lenL7 len7 key)) s)

/-- LEN_L16 (R56): `n` is the 16-bit extended length, `E` = 2. -/
def execLenL16 (n : BitVec 16) (key : Option Key) (s : State) : Host.Outcome State Fault Refusal :=
  .next (readLength (n.setWidth 64) key (headerSize (.lenL16 n key)) s)

/-- LEN_L64 (R56): `n` is the 64-bit extended length, `E` = 8. -/
def execLenL64 (n : BitVec 64) (key : Option Key) (s : State) : Host.Outcome State Fault Refusal :=
  .next (readLength n key (headerSize (.lenL64 n key)) s)

end Sys2Proof.Machine
end

