-- ==== Sys2Proof/Machine/Dispatch.lean ====
section
/-!
DEFINITION. One arm for each instruction.
-/

namespace Sys2Proof.Machine

def exec (i : Instr) (s : State) : Host.Outcome State Fault Refusal :=
  match i with
  | .send fin bin cmp msk ro cb len buf => Sys2Proof.Machine.execSend fin bin cmp msk ro cb len buf s
  | .ping msk ro cb len buf => Sys2Proof.Machine.execPing msk ro cb len buf s
  | .pong msk ro cb len buf => Sys2Proof.Machine.execPong msk ro cb len buf s
  | .close msk cb code len buf => Sys2Proof.Machine.execClose msk cb code len buf s
  | .frameContinuation fin rsv1 => Sys2Proof.Machine.execFrameContinuation fin rsv1 s
  | .frameText fin rsv1 => Sys2Proof.Machine.execFrameText fin rsv1 s
  | .frameBinary fin rsv1 => Sys2Proof.Machine.execFrameBinary fin rsv1 s
  | .frameClose => Sys2Proof.Machine.execFrameClose s
  | .framePing => Sys2Proof.Machine.execFramePing s
  | .framePong => Sys2Proof.Machine.execFramePong s
  | .lenL7 len7 key => Sys2Proof.Machine.execLenL7 len7 key s
  | .lenL16 n key => Sys2Proof.Machine.execLenL16 n key s
  | .lenL64 n key => Sys2Proof.Machine.execLenL64 n key s

end Sys2Proof.Machine
end

