-- ==== Sys2Proof/Machine/Turns.lean ====
section
/-!
DEFINITION. The turns of the two agents that run instructions: ENC, which decodes and runs the command on the port
(spec/41_frame_and_send.md R76), and the checker, which decodes and runs the header bytes of the output stream
(spec/30_encoding.md R63); and the choice of the next turn (spec/92_eei_decisions.md D1).
-/

namespace Sys2Proof.Machine

/-- ENC's turn: no command, no step; a command with a reserved bit is refused (R61, R76 step 1). -/
def encTurn (s : State) : Host.Outcome State Fault Refusal :=
  match s.port with
  | none => .next s
  | some c =>
    match decode (.command c) with
    | .error _ => .refused .reservedBits
    | .ok i => exec i s

/-- The checker's turn: it reads a byte 0, a header from byte 1 on, or a payload, when the bytes are there. -/
def readerTurn (s : State) : Host.Outcome State Fault Refusal :=
  match s.reader.phase with
  | .header0 =>
    match s.reader.input with
    | [] => .next s
    | b :: _ =>
      match decode (.header0 b) with
      | .error _ => .next (readerLost s)
      | .ok i => exec i s
  | .header1 =>
    match decode (.header1 s.reader.input) with
    | .error _ => .next s
    | .ok i => exec i s
  | .payload => .next (readPayload s)
  | .lost => .next s

/-- TRANSPORT's turn: it answers the outstanding write, if there is one (R90). -/
def transportTurn (s : State) : State :=
  drainAnswer (Config.answer s.answers.length) s

/-- The turn of the agent that `s.turn` names. -/
def agentTurn (s : State) : Host.Outcome State Fault Refusal :=
  match s.turn with
  | .host => hostAct s
  | .enc => encTurn s
  | .drain => .next (drainIssue s)
  | .transport => .next (transportTurn s)
  | .reader => readerTurn s

/-- The next turn is any agent's (R113, R133): a free value for each step. -/
def nextTurn (s : State) : State :=
  { s with turn := Config.schedule s.steps, steps := s.steps + 1 }

/-- After a turn that answers a next state, the next turn is chosen. -/
def advance (o : Host.Outcome State Fault Refusal) : Host.Outcome State Fault Refusal :=
  match o with
  | .next t => .next (nextTurn t)
  | .fault f => .fault f
  | .refused r => .refused r

/-- Where a word of the opcode table stands for its agent to run it next: a command on the port with LEN = 0 and BUF = 0
and ENC's turn (R24); a header byte at the front of the checker's bytes, the phase as the byte's kind asks, and the
checker's turn (R63). -/
def placeWord (s : State) (nbits w : Nat) : State :=
  if nbits ≤ 8 then
    { s with
      turn := .reader
      reader := { s.reader with
        input := BitVec.ofNat 8 w :: zeroTail
        phase :=
          match decode (.header0 (BitVec.ofNat 8 w)) with
          | .ok _ => .header0
          | .error _ => .header1 } }
  else
    { s with turn := .enc, port := some ⟨BitVec.ofNat 32 w, 0#64, 0⟩ }

end Sys2Proof.Machine
end

