-- ==== Sys2Proof/Machine/Api.lean ====
section
/-!
DEFINITION. The pseudo-operations of spec/30_encoding.md R62: each API call of the document expands to one command.
HOST makes the expansion; no step of the machine uses it. A default argument below is the default of R62 and D20, and a
field the table omits is 0 (R62). The argument `callback` is the model's own: the table has the forms without a callback.
Log entry 15.
-/

namespace Sys2Proof.Machine

/-- A caller's buffer: where it lies, its length, and whether it may not be mutated (RO, R49). -/
structure Buffer where
  addr : Nat
  len : Len
  readOnly : Bool
deriving DecidableEq, Repr

/-- The options of `send`: `fin` defaults to true, the rest to false (R62). -/
structure SendOptions where
  fin : Bool := true
  masked : Bool := false
  binary : Bool := false
  compress : Bool := false
deriving DecidableEq, Repr

/-- `send(data, options)`: RO is the buffer's kind, `ro=<buffer type>` (R62). -/
def apiSend (data : Buffer) (o : SendOptions := {}) (callback : Bool := false) : Instr :=
  .send o.fin o.binary o.compress o.masked data.readOnly callback data.len data.addr

/-- `ping(data?, masked?)`: no data is LEN = 0; the table omits RO, so it is 0 with data and without (R62). -/
def apiPing (data : Option Buffer := none) (masked : Bool := false) (callback : Bool := false) : Instr :=
  match data with
  | none => .ping masked false callback 0#64 0
  | some d => .ping masked false callback d.len d.addr

/-- `pong(data?, masked?)`: no data is LEN = 0; the table omits RO, so it is 0 with data and without (R62). -/
def apiPong (data : Option Buffer := none) (masked : Bool := false) (callback : Bool := false) : Instr :=
  match data with
  | none => .pong masked false callback 0#64 0
  | some d => .pong masked false callback d.len d.addr

/-- CP, CV and CODE of `close(code?)`: `isValid` is the external validator, which HOST asks (R50, D19). -/
def apiCloseCode (isValid : BitVec 16 → Bool) (code : Option (BitVec 16)) : CloseCode :=
  match code with
  | none => .absent
  | some c => .given c (isValid c)

/-- `close(code?, reason?, masked?)`: no reason is LEN = 0. -/
def apiClose (isValid : BitVec 16 → Bool) (code : Option (BitVec 16) := none) (reason : Option Buffer := none)
    (masked : Bool := false) (callback : Bool := false) : Instr :=
  match reason with
  | none => .close masked callback (apiCloseCode isValid code) 0#64 0
  | some r => .close masked callback (apiCloseCode isValid code) r.len r.addr

end Sys2Proof.Machine
end

