-- ==== Sys2Proof/Safety.lean ====
section
/-!
DEFINITION. What the statements speak of: the jobs the block may queue (spec/30_encoding.md R53, R59, R60), the
invariant of the machine, and the choice of a command's frame as spec/42_message_ops.md gives it.
-/

namespace Sys2Proof.Machine

/-- A job carries exactly one frame the block can emit, in one write, or, when its payload is not empty, in a write
that holds exactly the header and a write that holds exactly the payload (R33, R53, R59, R60). -/
def jobOk (j : Job) : Prop :=
  ∃ f : Frame, emittable f = true ∧
    (j.writes = .single (frameWire f) ∨
      (f.payload ≠ [] ∧ j.writes = .split (frameHeader f) (frameBody f.payload f.key)))

/-- At most `FIFO_DEPTH` jobs (R21). -/
def depthOk (s : State) : Prop :=
  match s.cfg.fifoDepth with
  | .unbounded => True
  | .bounded m => s.fifo.length ≤ m + 1

/-- The drain position fits the queue (R22): an outstanding write is the last one presented and belongs to the head
job, and only the second write of a two-write job has index 1. -/
def drainOk (s : State) : Prop :=
  (s.drainBusy = true → s.fifo ≠ [] ∧ s.writes.getLast? = some (outstanding s)) ∧
  (s.drainNext = true → ∃ hdr body cb src rest, s.fifo = ⟨.split hdr body, cb, src⟩ :: rest)

/-- Every byte of the memory has an address below `2 ^ ADDR_W` (R31). -/
def memoryBounded (s : State) : Prop :=
  ∀ c ∈ s.mem, c.1 < 2 ^ s.cfg.addrW

/-- What each status port can have carried (R106, R109). -/
def portsOk (s : State) : Prop :=
  (∀ st ∈ s.responses, st = .ok ∨ st = .invalidCloseCode) ∧
  (∀ st ∈ s.completions, st = .ok ∨ st = .transportWriteFailure) ∧
  (∀ st ∈ s.errorEvents, st = .transportWriteFailure)

/-- The invariant of the machine. -/
structure Inv (s : State) : Prop where
  memWf : Memory.wf s.mem = true
  memBounded : memoryBounded s
  depth : depthOk s
  drain : drainOk s
  /-- at most one write is outstanding (R41): every write but the outstanding one is answered -/
  serial : s.writes.length = s.answers.length + s.drainBusy.toNat
  jobs : ∀ j ∈ s.fifo, jobOk j
  ports : portsOk s
  /-- under `PER_FRAME` the key register is not used (R17) -/
  policy : s.cfg.maskKeyPolicy = .perFrame → s.maskKeyValid = false

/-- The key of the next masked frame with a payload of `n` bytes: none when unmasked, four zero bytes when the frame
is empty (R78), the fresh draw under `PER_FRAME`, and under `CACHED` the cached key, or the draw if none is cached
yet (R71). -/
def nextKey (s : State) (masked : Bool) (n : Nat) : Option Key :=
  if !masked then none
  else if n = 0 then some 0#32
  else some (frameKey (Config.entropy s.draws) s)

/-- A command writes the caller's buffer (R38, R128): masked, not read-only, at least `MERGE_THRESHOLD` bytes. -/
def writesBack (s : State) (masked ro : Bool) (n : Nat) : Prop :=
  masked = true ∧ ro = false ∧ n ≠ 0 ∧ s.cfg.mergeThreshold ≤ n

/-- ENC has a step for a SEND, PING or PONG (R76): its range is admitted (R32) and the FIFO has room (R21). -/
def canAccept (s : State) (len : Len) (buf : Nat) : Prop :=
  (len = 0#64 ∨ buf + len.toNat ≤ 2 ^ s.cfg.addrW) ∧ fifoFull s = false

/-- ENC performs a CLOSE (R76, R100, R103). -/
def canClose (s : State) (code : CloseCode) (len : Len) (buf : Nat) : Prop :=
  len.toNat ≤ 2 ^ 64 - 3 ∧ canAccept s len buf ∧ ∀ c, code ≠ .given c false

/-- The payload length of a command's frame (R51, R101); 0 for a header form. -/
def payloadLength (i : Instr) : Nat :=
  match i with
  | .send _ _ _ _ _ _ len _ | .ping _ _ _ len _ | .pong _ _ _ len _ => len.toNat
  | .close _ _ _ len _ => 2 + len.toNat
  | _ => 0

/-- MSK of a command (R49); false for a header form. -/
def isMasked (i : Instr) : Bool :=
  match i with
  | .send _ _ _ msk _ _ _ _ | .ping msk _ _ _ _ | .pong msk _ _ _ _ | .close msk _ _ _ _ => msk
  | _ => false

/-- The caller's buffer that a command may mask in place: its address if RO = 0 (R49); CLOSE and the header forms have
none (R100). -/
def mutableBuffer (i : Instr) : Option Nat :=
  match i with
  | .send _ _ _ _ false _ _ buf | .ping _ false _ _ buf | .pong _ false _ _ buf => some buf
  | _ => none

/-- A command, not a header form. -/
def isCommand (i : Instr) : Bool :=
  match i with
  | .send .. | .ping .. | .pong .. | .close .. => true
  | _ => false

/-- ENC performs the command in this state (R76 step 5). -/
def performs (s : State) (i : Instr) : Prop :=
  match i with
  | .send _ _ _ _ _ _ len buf | .ping _ _ _ len buf | .pong _ _ _ len buf => canAccept s len buf
  | .close _ _ code len buf => canClose s code len buf
  | _ => False

/-- From `s` to `t` exactly one job is queued, at the tail (R20): it carries the frame `f` and the CB bit `cb`. -/
def queues (s t : State) (f : Frame) (cb : Bool) : Prop :=
  ∃ j, t.fifo = s.fifo ++ [j] ∧ j.cb = cb ∧ writeBytes j.writes = frameWire f

/-- HOST must leave the byte at `x` alone (R37, R129): it lies in the range `[BUF, BUF + LEN)` of the command on the port,
or in the range that the command of a queued job named. -/
def heldByte (s : State) (x : Nat) : Prop :=
  (∃ c, s.port = some c ∧ c.buf ≤ x ∧ x < c.buf + c.len.toNat) ∨
  (∃ j ∈ s.fifo, j.src.base ≤ x ∧ x < j.src.base + j.src.size)

/-- One fragment of a message, as a SEND gives it (R96), less its FIN. -/
structure Fragment where
  bin : Bool
  cmp : Bool
  msk : Bool
  ro : Bool
  cb : Bool
  len : Len
  buf : Nat
deriving DecidableEq, Repr

/-- The SENDs of one message: FIN = 0 for every fragment but the last (R97). -/
def fragmentSends (fs : List Fragment) : List Instr :=
  match fs with
  | [] => []
  | [f] => [.send true f.bin f.cmp f.msk f.ro f.cb f.len f.buf]
  | f :: g :: fs => .send false f.bin f.cmp f.msk f.ro f.cb f.len f.buf :: fragmentSends (g :: fs)

/-- Instructions run one after the other. -/
def execAll (is : List Instr) (s : State) : Host.Outcome State Fault Refusal :=
  match is with
  | [] => .next s
  | i :: is =>
    match exec i s with
    | .next t => execAll is t
    | .fault f => .fault f
    | .refused r => .refused r

/-- The opcodes that a sequence of jobs puts on the wire: bits 3:0 of each frame's byte 0 (R54). -/
def wireOpcodes (js : List Job) : List (BitVec 4) :=
  js.map fun j => ((writeBytes j.writes).headD 0#8).extractLsb' 0 4

end Sys2Proof.Machine
end

