-- ==== Sys2Proof/Certificates/Slice0/Obligations.lean ====
section
/-!
DEFINITION. The statements for the provers. Each docstring names the rules of spec/ it formalises.
-/

open Sys2Proof Sys2Proof.Machine

/-! ### Encodings (spec/30_encoding.md) -/

/-- Decoding the words of a well-formed instruction gives it back, with every operand at every value (R46 to R58). -/
def Obligations.DecodeEncode : Prop :=
  ∀ i : Instr, i.wf = true → decode (encode i) = .ok i

/-- Header words have one meaning: what decodes as byte 0 or as a header from byte 1 on is the encoding of what it
decodes to, and the decoder takes exactly those bytes (R54 to R57). -/
def Obligations.EncodeDecodeHeader : Prop :=
  (∀ (b : Byte) (i : Instr), decodeHeader0 b = .ok i → encode i = .header0 b ∧ headerSize i = 1) ∧
  (∀ (bs rest : List Byte) (i : Instr), decodeHeader1 bs = .ok (i, rest) →
    ∃ ws, encode i = .header1 ws ∧ bs = ws ++ rest ∧ ws.length = headerSize i)

/-- Whatever the decoder gives is well-formed: `len7` of form L7 is no marker (R55, R56). -/
def Obligations.DecodedWellFormed : Prop :=
  ∀ (w : Words) (i : Instr), decode w = .ok i → i.wf = true

/-- Words of the spec's encodings, written out by hand: command words of R46 and bytes of R54, R55. -/
def Obligations.DecodeWords : Prop :=
  decode (.command ⟨0x000000EC#32, 5#64, 9⟩) = .ok (.send true true false true true true 5#64 9) ∧
  decode (.command ⟨0x00000001#32, 0#64, 0⟩) = .ok (.ping false false false 0#64 0) ∧
  decode (.command ⟨0x00000022#32, 0#64, 0⟩) = .ok (.pong true false false 0#64 0) ∧
  decode (.command ⟨0x03E80383#32, 3#64, 0x300⟩) = .ok (.close false true (.given 1000#16 true) 3#64 0x300) ∧
  decode (.header0 0xC1#8) = .ok (.frameText true true) ∧
  decode (.header0 0x88#8) = .ok .frameClose ∧
  decode (.header1 [0x85#8, 0x37#8, 0xFA#8, 0x21#8, 0x3D#8]) = .ok (.lenL7 5#7 (some 0x37FA213D#32)) ∧
  decode (.header1 [0x7E#8, 0x01#8, 0x2C#8]) = .ok (.lenL16 300#16 none)

/-- A command with any of CMD bits 15:10 non-zero is refused, and with all of them zero it is one of the four
operations, with its LEN and BUF: there is no illegal OP (R47, R61). -/
def Obligations.ReservedBitsRefused : Prop :=
  (∀ (s : State) (c : Command), s.turn = .enc → s.port = some c → c.cmd.extractLsb' 10 6 ≠ 0#6 →
    step s = .refused .reservedBits) ∧
  (∀ c : Command, c.cmd.extractLsb' 10 6 = 0#6 → ∃ i, decode (.command c) = .ok i ∧ isCommand i = true)

/-- Fields an operation does not use are ignored: two command words that agree on OP, on the fields the operation uses
and on LEN and BUF are the same instruction (R52). -/
def Obligations.IgnoredFields : Prop :=
  ∀ c d : Command, c.cmd.extractLsb' 10 6 = 0#6 → d.cmd.extractLsb' 10 6 = 0#6 → c.len = d.len → c.buf = d.buf →
    c.cmd.extractLsb' 0 2 = d.cmd.extractLsb' 0 2 →
    (c.cmd.extractLsb' 0 2 = 0#2 → c.cmd.extractLsb' 2 6 = d.cmd.extractLsb' 2 6 →
      decode (.command c) = decode (.command d)) ∧
    (c.cmd.extractLsb' 0 2 = 1#2 ∨ c.cmd.extractLsb' 0 2 = 2#2 → c.cmd.extractLsb' 5 3 = d.cmd.extractLsb' 5 3 →
      decode (.command c) = decode (.command d)) ∧
    (c.cmd.extractLsb' 0 2 = 3#2 → c.cmd.getLsbD 5 = d.cmd.getLsbD 5 → c.cmd.getLsbD 7 = d.cmd.getLsbD 7 →
      c.cmd.getLsbD 8 = d.cmd.getLsbD 8 →
      (c.cmd.getLsbD 8 = true →
        c.cmd.getLsbD 9 = d.cmd.getLsbD 9 ∧ c.cmd.extractLsb' 16 16 = d.cmd.extractLsb' 16 16) →
      decode (.command c) = decode (.command d))

/-! ### Frame primitives (spec/40_frame_primitives.md) -/

/-- The three payload-length forms, selected by the payload length alone (R56, R64). -/
def Obligations.LengthForms : Prop :=
  ∀ n : Len,
    (n.toNat < 126 → (encodeLength n).1.toNat = n.toNat ∧ (encodeLength n).2 = []) ∧
    (126 ≤ n.toNat → n.toNat ≤ 65535 →
      encodeLength n = (126#7, [BitVec.ofNat 8 (n.toNat / 256), BitVec.ofNat 8 n.toNat])) ∧
    (65536 ≤ n.toNat →
      encodeLength n = (127#7,
        [BitVec.ofNat 8 (n.toNat / 2 ^ 56), BitVec.ofNat 8 (n.toNat / 2 ^ 48), BitVec.ofNat 8 (n.toNat / 2 ^ 40),
         BitVec.ofNat 8 (n.toNat / 2 ^ 32), BitVec.ofNat 8 (n.toNat / 2 ^ 24), BitVec.ofNat 8 (n.toNat / 2 ^ 16),
         BitVec.ofNat 8 (n.toNat / 2 ^ 8), BitVec.ofNat 8 n.toNat]))

/-- `EncodeLength` at its boundaries (R65). -/
def Obligations.LengthBoundaries : Prop :=
  encodeLength 0#64 = (0#7, []) ∧
  encodeLength 125#64 = (125#7, []) ∧
  encodeLength 126#64 = (126#7, [0x00#8, 0x7E#8]) ∧
  encodeLength 127#64 = (126#7, [0x00#8, 0x7F#8]) ∧
  encodeLength 65535#64 = (126#7, [0xFF#8, 0xFF#8]) ∧
  encodeLength 65536#64 = (127#7, [0#8, 0#8, 0#8, 0#8, 0#8, 1#8, 0#8, 0#8]) ∧
  encodeLength 0xFFFFFFFF#64 = (127#7, [0#8, 0#8, 0#8, 0#8, 0xFF#8, 0xFF#8, 0xFF#8, 0xFF#8]) ∧
  encodeLength 0x100000000#64 = (127#7, [0#8, 0#8, 0#8, 1#8, 0#8, 0#8, 0#8, 0#8]) ∧
  encodeLength 0x8000000000000000#64 = (127#7, [0x80#8, 0#8, 0#8, 0#8, 0#8, 0#8, 0#8, 0#8]) ∧
  encodeLength 0xFFFFFFFFFFFFFFFF#64 =
    (127#7, [0xFF#8, 0xFF#8, 0xFF#8, 0xFF#8, 0xFF#8, 0xFF#8, 0xFF#8, 0xFF#8])

/-- A checker tells the payload length, the key and the header length back from the header the block packs, whatever
bytes follow, and the length form it meets is minimal (R60, R63). -/
def Obligations.HeaderReadsBack : Prop :=
  ∀ (opcode : BitVec 4) (fin rsv1 : Bool) (n : Len) (key : Option Key) (rest : List Byte),
    ∃ i, decodeHeader1 ((packHeader opcode fin rsv1 n key).tail ++ rest) = .ok (i, rest) ∧
      formLength i = n ∧ formKey i = key ∧ i.minimal = true ∧
      1 + headerSize i = (packHeader opcode fin rsv1 n key).length

/-- `PackHeader` of a non-empty frame: byte 0 is `(fin << 7) | (rsv1 << 6) | opcode` with RSV2 and RSV3 zero, byte 1 is
`(masked << 7) | len7`, then the extended length, then the key `k0 k1 k2 k3` iff masked (R68, R54, R55, R57). -/
def Obligations.PackHeader : Prop :=
  ∀ (opcode : BitVec 4) (fin rsv1 : Bool) (n : Len) (key : Option Key),
    packHeader opcode fin rsv1 n key =
      [((BitVec.ofBool fin).setWidth 8 <<< 7) ||| ((BitVec.ofBool rsv1).setWidth 8 <<< 6) ||| ((0#8) <<< 5) |||
          ((0#8) <<< 4) ||| opcode.setWidth 8,
        ((BitVec.ofBool key.isSome).setWidth 8 <<< 7) ||| (encodeLength n).1.setWidth 8] ++
      (encodeLength n).2 ++
      (match key with
        | none => []
        | some k =>
          [(k >>> 24).setWidth 8, (k >>> 16).setWidth 8, (k >>> 8).setWidth 8, k.setWidth 8])

/-- The header length is `H = 2 + E + (MASK ? 4 : 0)`, `E` being 0, 2 or 8 by the form; the payload starts at byte `H` and
the frame is `H + n` bytes (R58). -/
def Obligations.HeaderLength : Prop :=
  ∀ f : Frame, f.payload.length < 2 ^ 64 →
    let n := f.payload.length
    let H := 2 + (if n < 126 then 0 else if n ≤ 65535 then 2 else 8) + (if f.key.isSome then 4 else 0)
    (frameHeader f).length = H ∧ (frameWire f).length = H + n ∧
    (frameWire f).drop H = frameBody f.payload f.key

/-- Byte `i` of the masked payload is `p[i] XOR k[i mod 4]`, and no byte is added or lost (R66). -/
def Obligations.MaskBytes : Prop :=
  ∀ (p : List Byte) (k : Key),
    (mask p k).length = p.length ∧
    ∀ (i : Nat) (b kb : Byte), p[i]? = some b → (keyBytes k)[i % 4]? = some kb →
      (mask p k)[i]? = some (b ^^^ kb)

/-- Unmasking is masking with the same key, the length is kept, and lane `j` depends on `kj` only (R67). -/
def Obligations.MaskInvolution : Prop :=
  ∀ (p : List Byte) (k : Key),
    mask (mask p k) k = p ∧ (mask p k).length = p.length ∧
    ∀ (k' : Key) (i : Nat), (keyBytes k)[i % 4]? = (keyBytes k')[i % 4]? → (mask p k)[i]? = (mask p k')[i]?

/-- Every frame the block can emit is told back from its bytes, whatever follows on the stream: flags, opcode, key, and
the payload before masking (R53, R63, R67). -/
def Obligations.FrameReadsBack : Prop :=
  ∀ (f : Frame) (rest : List Byte), emittable f = true → parseFrame (frameWire f ++ rest) = some (f, rest)

/-! ### The commands (spec/41_frame_and_send.md, spec/42_message_ops.md) -/

/-- SEND, when its range is admitted and the FIFO has room: one data frame is queued, its opcode chosen by
`first_fragment` before the command and BIN, FIN and CMP as given (RSV1 0 when empty), `first_fragment` becomes FIN,
and the command is answered `OK` (R76, R96). -/
def Obligations.SendCompletes : Prop :=
  ∀ (s : State) (fin bin cmp msk ro cb : Bool) (len : Len) (buf : Nat), canAccept s len buf →
    ∃ t, exec (.send fin bin cmp msk ro cb len buf) s = .next t ∧
      queues s t
        { fin := fin
          rsv1 := cmp && len != 0#64
          opcode := if s.firstFragment then (if bin then 0x2#4 else 0x1#4) else 0x0#4
          key := nextKey s msk len.toNat
          payload := memRead s.mem buf len.toNat } cb ∧
      t.firstFragment = fin ∧ t.responses = s.responses ++ [.ok] ∧ t.port = none

/-- PING and PONG, when the range is admitted and the FIFO has room: one control frame 0x9 or 0xA is queued, final and
not compressed, with the bytes at BUF as payload; `first_fragment` stays; the command is answered `OK` (R98, R99). -/
def Obligations.PingPongComplete : Prop :=
  ∀ (s : State) (msk ro cb : Bool) (len : Len) (buf : Nat), canAccept s len buf →
    (∃ t, exec (.ping msk ro cb len buf) s = .next t ∧
      queues s t ⟨true, false, 0x9#4, nextKey s msk len.toNat, memRead s.mem buf len.toNat⟩ cb ∧
      t.firstFragment = s.firstFragment ∧ t.responses = s.responses ++ [.ok] ∧ t.port = none) ∧
    (∃ t, exec (.pong msk ro cb len buf) s = .next t ∧
      queues s t ⟨true, false, 0xA#4, nextKey s msk len.toNat, memRead s.mem buf len.toNat⟩ cb ∧
      t.firstFragment = s.firstFragment ∧ t.responses = s.responses ++ [.ok] ∧ t.port = none)

/-- CLOSE, when its length and range are admitted, its code is not rejected and the FIFO has room: one final frame 0x8
is queued, its payload the big-endian code (1000 when none is supplied) and the reason; `first_fragment` and the payload
memory stay; the command is answered `OK` (R100, R101, R102). -/
def Obligations.CloseCompletes : Prop :=
  ∀ (s : State) (msk cb : Bool) (code : CloseCode) (len : Len) (buf : Nat), canClose s code len buf →
    ∃ t hi lo, exec (.close msk cb code len buf) s = .next t ∧
      queues s t ⟨true, false, 0x8#4, nextKey s msk (2 + len.toNat), hi :: lo :: memRead s.mem buf len.toNat⟩ cb ∧
      (code = .absent → hi = 0x03#8 ∧ lo = 0xE8#8) ∧
      (∀ c, code = .given c true → hi ++ lo = c) ∧
      t.firstFragment = s.firstFragment ∧ t.mem = s.mem ∧ t.responses = s.responses ++ [.ok] ∧ t.port = none

/-- An empty frame is its header alone in one write: no RSV1 whatever CMP is, four zero key bytes if masked, and no key
is drawn or cached (R78). The job's third field, the range its command named, is the model's choice (log entry 6), and so
is the counter of draws (log entry 8). -/
def Obligations.EmptyFrame : Prop :=
  ∀ (s : State) (fin bin cmp msk ro cb : Bool) (buf : Nat), fifoFull s = false →
    (∃ t, exec (.send fin bin cmp msk ro cb 0#64 buf) s = .next t ∧
      t.fifo = s.fifo ++
        [⟨.single (headerByte0 fin false (if s.firstFragment then (if bin then 0x2#4 else 0x1#4) else 0x0#4) ::
          (if msk then [0x80#8, 0#8, 0#8, 0#8, 0#8] else [0x00#8])), cb, ⟨buf, 0⟩⟩] ∧
      t.draws = s.draws ∧ t.maskKey = s.maskKey ∧ t.maskKeyValid = s.maskKeyValid) ∧
    (∃ t, exec (.ping msk ro cb 0#64 buf) s = .next t ∧
      t.fifo = s.fifo ++ [⟨.single (0x89#8 :: (if msk then [0x80#8, 0#8, 0#8, 0#8, 0#8] else [0x00#8])), cb, ⟨buf, 0⟩⟩] ∧
      t.draws = s.draws ∧ t.maskKey = s.maskKey ∧ t.maskKeyValid = s.maskKeyValid) ∧
    (∃ t, exec (.pong msk ro cb 0#64 buf) s = .next t ∧
      t.fifo = s.fifo ++ [⟨.single (0x8A#8 :: (if msk then [0x80#8, 0#8, 0#8, 0#8, 0#8] else [0x00#8])), cb, ⟨buf, 0⟩⟩] ∧
      t.draws = s.draws ∧ t.maskKey = s.maskKey ∧ t.maskKeyValid = s.maskKeyValid)

/-- A CLOSE whose supplied code the validator rejected is answered `INVALID_CLOSE_CODE` and has no other effect; a full
FIFO does not hold it (R103, R107, R113). -/
def Obligations.InvalidCloseCode : Prop :=
  ∀ (s : State) (msk cb : Bool) (c : BitVec 16) (len : Len) (buf : Nat),
    len.toNat ≤ 2 ^ 64 - 3 → (len = 0#64 ∨ buf + len.toNat ≤ 2 ^ s.cfg.addrW) →
    exec (.close msk cb (.given c false) len buf) s =
      .next { s with responses := s.responses ++ [.invalidCloseCode], port := none }

/-- A command that would queue a job while `len(S.fifo) = FIFO_DEPTH` is not accepted and stays on the port; the FIFO is
full exactly when it has `FIFO_DEPTH` jobs, so with `FIFO_DEPTH = UNBOUNDED` the hold never arises (R21). The spec gives
ENC no step for a held command (R10); that this is a turn which answers the state as it is, is the model's choice (log
entry 9). -/
def Obligations.HoldWhenFull : Prop :=
  ∀ s : State,
    (∀ m, s.cfg.fifoDepth = .bounded m → s.fifo.length = m + 1 →
      (∀ fin bin cmp msk ro cb len buf, exec (.send fin bin cmp msk ro cb len buf) s = .next s) ∧
      (∀ msk ro cb len buf, exec (.ping msk ro cb len buf) s = .next s) ∧
      (∀ msk ro cb len buf, exec (.pong msk ro cb len buf) s = .next s) ∧
      (∀ msk cb code len buf, (∀ c, code ≠ .given c false) → exec (.close msk cb code len buf) s = .next s)) ∧
    (fifoFull s = true ↔ ∃ m, s.cfg.fifoDepth = .bounded m ∧ s.fifo.length = m + 1)

/-- Range admission: a command with LEN ≠ 0 whose range passes the end of the payload memory has no step and stays on the
port; a range that ends at the end of the memory or before it, and LEN = 0 whatever BUF holds, is admitted (R32), and
with room in the FIFO the command is answered `OK` (R76). A CLOSE with LEN > 2^64 - 3 has no step either (R100). That
`no step` is a turn which answers the state as it is, is the model's choice (log entry 9). -/
def Obligations.RangeAdmission : Prop :=
  ∀ (s : State) (len : Len) (buf : Nat),
    ((len ≠ 0#64 ∧ 2 ^ s.cfg.addrW < buf + len.toNat) →
      (∀ fin bin cmp msk ro cb, exec (.send fin bin cmp msk ro cb len buf) s = .next s) ∧
      (∀ msk ro cb, exec (.ping msk ro cb len buf) s = .next s) ∧
      (∀ msk ro cb, exec (.pong msk ro cb len buf) s = .next s) ∧
      (∀ msk cb code, exec (.close msk cb code len buf) s = .next s)) ∧
    ((len = 0#64 ∨ buf + len.toNat ≤ 2 ^ s.cfg.addrW) → fifoFull s = false →
      (∀ fin bin cmp msk ro cb, ∃ t, exec (.send fin bin cmp msk ro cb len buf) s = .next t ∧ t.port = none ∧
        t.responses = s.responses ++ [.ok]) ∧
      (∀ msk ro cb, ∃ t, exec (.ping msk ro cb len buf) s = .next t ∧ t.port = none ∧
        t.responses = s.responses ++ [.ok]) ∧
      (∀ msk ro cb, ∃ t, exec (.pong msk ro cb len buf) s = .next t ∧ t.port = none ∧
        t.responses = s.responses ++ [.ok]) ∧
      (∀ msk cb code, len.toNat ≤ 2 ^ 64 - 3 → (∀ c, code ≠ .given c false) →
        ∃ t, exec (.close msk cb code len buf) s = .next t ∧ t.port = none ∧ t.responses = s.responses ++ [.ok])) ∧
    (2 ^ 64 - 3 < len.toNat → ∀ msk cb code, exec (.close msk cb code len buf) s = .next s)

/-- `FrameAndSend`, the procedure shared by the four commands: the job it queues, the write-back to the payload memory,
the key cache and the draw, and that nothing else changes (R87; R78 for the empty payload, R82 to R86 for the others;
R71 for the key). `draw` is ENTROPY's answer if it is asked. The job's range `src` is the model's choice (log entry 6),
and so is the counter of draws (log entry 8). -/
def Obligations.FrameAndSend : Prop :=
  ∀ (draw : Key) (opcode : BitVec 4) (p : List Byte) (wb : Option Nat) (ro fin rsv1 masked cb : Bool) (src : Range)
    (s : State),
    let t := frameAndSend draw opcode p wb ro fin rsv1 masked cb src s
    let draws := masked = true ∧ p ≠ [] ∧ (s.cfg.maskKeyPolicy = .perFrame ∨ s.maskKeyValid = false)
    let keeps := masked = true ∧ p ≠ [] ∧ s.cfg.maskKeyPolicy = .cached ∧ s.maskKeyValid = false
    let key := if s.cfg.maskKeyPolicy = .cached ∧ s.maskKeyValid = true then s.maskKey else draw
    let hdr := packHeader opcode fin rsv1 (BitVec.ofNat 64 p.length) (if masked then some key else none)
    let body := if masked then mask p key else p
    let merge := p.length < s.cfg.mergeThreshold ∨ (masked = true ∧ ro = true)
    t.fifo = s.fifo ++
      [⟨if p = [] then .single (fastHeader opcode fin masked) else if merge then .single (hdr ++ body) else .split hdr body,
        cb, src⟩] ∧
    t.mem = (match wb with
      | none => s.mem
      | some a => if p ≠ [] ∧ masked = true ∧ ¬ merge then memWrite s.mem a body else s.mem) ∧
    t.maskKey = (if keeps then draw else s.maskKey) ∧
    t.maskKeyValid = (if keeps then true else s.maskKeyValid) ∧
    t.draws = s.draws + (if draws then 1 else 0) ∧
    { t with
      fifo := s.fifo, mem := s.mem, maskKey := s.maskKey, maskKeyValid := s.maskKeyValid, draws := s.draws } = s

/-- The buffer-merge decision: a non-empty frame is one write if it is shorter than `MERGE_THRESHOLD`, or masked and
read-only; else the header and the payload are two writes (R81 to R84). A CLOSE's payload is the block's own, so it is
never read-only (R100).
The job keeps the range its command named, the model's choice (log entry 6). -/
def Obligations.MergeDecision : Prop :=
  ∀ (s : State) (msk ro cb : Bool) (len : Len) (buf : Nat), canAccept s len buf → len ≠ 0#64 →
    (∀ fin bin cmp, ∃ t j hdr body, exec (.send fin bin cmp msk ro cb len buf) s = .next t ∧
      t.fifo = s.fifo ++ [j] ∧
      hdr = packHeader (if s.firstFragment then (if bin then 0x2#4 else 0x1#4) else 0x0#4) fin cmp len
        (nextKey s msk len.toNat) ∧
      body = frameBody (memRead s.mem buf len.toNat) (nextKey s msk len.toNat) ∧
      j.src = ⟨buf, len.toNat⟩ ∧
      j.writes = if len.toNat < s.cfg.mergeThreshold ∨ (msk = true ∧ ro = true) then .single (hdr ++ body)
        else .split hdr body) ∧
    (∃ t j hdr body, exec (.ping msk ro cb len buf) s = .next t ∧ t.fifo = s.fifo ++ [j] ∧
      hdr = packHeader 0x9#4 true false len (nextKey s msk len.toNat) ∧
      body = frameBody (memRead s.mem buf len.toNat) (nextKey s msk len.toNat) ∧
      j.src = ⟨buf, len.toNat⟩ ∧
      j.writes = if len.toNat < s.cfg.mergeThreshold ∨ (msk = true ∧ ro = true) then .single (hdr ++ body)
        else .split hdr body) ∧
    (∃ t j hdr body, exec (.pong msk ro cb len buf) s = .next t ∧ t.fifo = s.fifo ++ [j] ∧
      hdr = packHeader 0xA#4 true false len (nextKey s msk len.toNat) ∧
      body = frameBody (memRead s.mem buf len.toNat) (nextKey s msk len.toNat) ∧
      j.src = ⟨buf, len.toNat⟩ ∧
      j.writes = if len.toNat < s.cfg.mergeThreshold ∨ (msk = true ∧ ro = true) then .single (hdr ++ body)
        else .split hdr body)

/-- A CLOSE's payload of `2 + LEN` bytes is split by its length alone: one write below `MERGE_THRESHOLD`, else two, masked
or not, whatever RO was (R81, R83, R100).
The job keeps the range its command named, the model's choice (log entry 6). -/
def Obligations.CloseMergeDecision : Prop :=
  ∀ (s : State) (msk cb : Bool) (code : CloseCode) (len : Len) (buf : Nat), canClose s code len buf →
    ∃ t j, exec (.close msk cb code len buf) s = .next t ∧ t.fifo = s.fifo ++ [j] ∧
      j.src = ⟨buf, len.toNat⟩ ∧
      (2 + len.toNat < s.cfg.mergeThreshold → ∃ frame, j.writes = .single frame) ∧
      (s.cfg.mergeThreshold ≤ 2 + len.toNat → ∃ body,
        j.writes = .split (packHeader 0x8#4 true false (2#64 + len) (nextKey s msk (2 + len.toNat))) body ∧
        body.length = 2 + len.toNat)

/-- A message sent in fragments from `MessageStart`, FIN = 0 for all but the last: the opcodes on the wire are the real
opcode of the first fragment's BIN and then 0x0 for every other, whatever the later BINs are, and the state is
`MessageStart` again (R94, R97). -/
def Obligations.FragmentedMessage : Prop :=
  ∀ (s : State) (f : Fragment) (fs : List Fragment), s.firstFragment = true → s.cfg.fifoDepth = .unbounded →
    (∀ g ∈ f :: fs, g.len = 0#64 ∨ g.buf + g.len.toNat ≤ 2 ^ s.cfg.addrW) →
    ∃ t js, execAll (fragmentSends (f :: fs)) s = .next t ∧ t.fifo = s.fifo ++ js ∧ t.firstFragment = true ∧
      wireOpcodes js = (if f.bin then 0x2#4 else 0x1#4) :: List.replicate fs.length 0x0#4

/-- On the split masked path of SEND, PING and PONG the caller's buffer is masked in place in the same step: after it,
byte `x` of the range is `p[x] XOR k[x mod 4]` (R38, R83). -/
def Obligations.InPlaceMasking : Prop :=
  ∀ (s : State) (len : Len) (buf : Nat) (i : Instr),
    ((∃ fin bin cmp cb, i = .send fin bin cmp true false cb len buf) ∨ (∃ cb, i = .ping true false cb len buf) ∨
      (∃ cb, i = .pong true false cb len buf)) →
    Memory.wf s.mem = true → canAccept s len buf → writesBack s true false len.toNat →
    ∃ t k, exec i s = .next t ∧ nextKey s true len.toNat = some k ∧
      ∀ x kb, x < len.toNat → (keyBytes k)[x % 4]? = some kb →
        readByte t.mem (buf + x) = readByte s.mem (buf + x) ^^^ kb

/-- What SEND, PING and PONG leave alone: the configuration, the drain position, the completion, error-event and
transport ports, the jobs already queued, HOST's and the checker's side; `first_fragment` but for SEND; the key cache
but for a non-empty masked frame; and every byte of memory but those of the caller's buffer when it is masked in place
(R16, R36, R38, R87, R96, R98).
HOST's list, the checker, the draws and the turns are the model's fields (log entries 5, 7, 8, 9). -/
def Obligations.SendPingPongFrame : Prop :=
  ∀ (s t : State) (i : Instr) (msk ro : Bool) (len : Len) (buf : Nat),
    ((∃ fin bin cmp cb, i = .send fin bin cmp msk ro cb len buf) ∨ (∃ cb, i = .ping msk ro cb len buf) ∨
      (∃ cb, i = .pong msk ro cb len buf)) →
    Memory.wf s.mem = true → exec i s = .next t →
    t.cfg = s.cfg ∧ t.drainNext = s.drainNext ∧ t.drainBusy = s.drainBusy ∧ t.completions = s.completions ∧
    t.errorEvents = s.errorEvents ∧ t.writes = s.writes ∧ t.answers = s.answers ∧ t.host = s.host ∧
    t.reader = s.reader ∧ t.steps = s.steps ∧ t.turn = s.turn ∧ s.fifo <+: t.fifo ∧
    ((∀ fin bin cmp cb, i ≠ .send fin bin cmp msk ro cb len buf) → t.firstFragment = s.firstFragment) ∧
    (msk = false ∨ len = 0#64 →
      t.maskKey = s.maskKey ∧ t.maskKeyValid = s.maskKeyValid ∧ t.draws = s.draws) ∧
    (∀ a, (writesBack s msk ro len.toNat → a < buf ∨ buf + len.toNat ≤ a) → readByte t.mem a = readByte s.mem a)

/-- What CLOSE leaves alone, the payload memory and `first_fragment` among it (R87, R95, R100).
HOST's list, the checker, the draws and the turns are the model's fields (log entries 5, 7, 8, 9). -/
def Obligations.CloseFrame : Prop :=
  ∀ (s t : State) (msk cb : Bool) (code : CloseCode) (len : Len) (buf : Nat),
    exec (.close msk cb code len buf) s = .next t →
    t.cfg = s.cfg ∧ t.firstFragment = s.firstFragment ∧ t.drainNext = s.drainNext ∧ t.drainBusy = s.drainBusy ∧
    t.completions = s.completions ∧ t.errorEvents = s.errorEvents ∧ t.writes = s.writes ∧ t.answers = s.answers ∧
    t.host = s.host ∧ t.reader = s.reader ∧ t.steps = s.steps ∧ t.turn = s.turn ∧ t.mem = s.mem ∧
    s.fifo <+: t.fifo ∧
    (msk = false → t.maskKey = s.maskKey ∧ t.maskKeyValid = s.maskKeyValid ∧ t.draws = s.draws)

/-- The mask-key source: a performed non-empty masked command under `PER_FRAME` takes a fresh draw and leaves the key
register alone; under `CACHED` the first one draws the key into the register and marks it valid, and every later one
changes nothing there (R71, R72). The draws are free values (log entry 8). -/
def Obligations.MaskKeySource : Prop :=
  ∀ (s : State) (i : Instr), performs s i → isMasked i = true → payloadLength i ≠ 0 →
    ∃ t, exec i s = .next t ∧
      (s.cfg.maskKeyPolicy = .perFrame →
        t.maskKey = s.maskKey ∧ t.maskKeyValid = s.maskKeyValid ∧ t.draws = s.draws + 1 ∧
        nextKey s true (payloadLength i) = some (Config.entropy s.draws)) ∧
      (s.cfg.maskKeyPolicy = .cached → s.maskKeyValid = true →
        t.maskKey = s.maskKey ∧ t.maskKeyValid = true ∧ t.draws = s.draws ∧
        nextKey s true (payloadLength i) = some s.maskKey) ∧
      (s.cfg.maskKeyPolicy = .cached → s.maskKeyValid = false →
        t.maskKey = Config.entropy s.draws ∧ t.maskKeyValid = true ∧ t.draws = s.draws + 1 ∧
        nextKey s true (payloadLength i) = some (Config.entropy s.draws))

/-- A control frame never touches or depends on `first_fragment`: with the other value of it, PING, PONG and CLOSE do
the same and leave that value (R16, R95). -/
def Obligations.ControlIgnoresFragment : Prop :=
  ∀ (s t : State) (b : Bool) (i : Instr),
    ((∃ msk ro cb len buf, i = .ping msk ro cb len buf) ∨ (∃ msk ro cb len buf, i = .pong msk ro cb len buf) ∨
      (∃ msk cb code len buf, i = .close msk cb code len buf)) →
    exec i s = .next t →
    t.firstFragment = s.firstFragment ∧
    exec i { s with firstFragment := b } = .next { t with firstFragment := b }

/-- `S.mask_key` is read only when `S.mask_key_valid = 1`: before that, no command's result depends on what it holds
(R18), at reset 0 by the model's choice (log entry 3). -/
def Obligations.UnsetKeyUnobserved : Prop :=
  ∀ (s : State) (k : Key) (i : Instr), s.maskKeyValid = false → isCommand i = true →
    ∃ t t', exec i s = .next t ∧ exec i { s with maskKey := k } = .next t' ∧
      { t' with maskKey := t.maskKey } = t ∧ (t.maskKeyValid = true → t' = t)

/-! ### The header forms, read by the checker (spec/30_encoding.md R54 to R63; the registers are the model's own, log
entry 7) -/

/-- Byte 0 of a frame tells the checker FIN, RSV1 and the opcode of R59, and takes one byte; the checker's registers are
the model's (log entry 7). -/
def Obligations.Byte0Forms : Prop :=
  ∀ (s : State) (fin rsv1 : Bool),
    let told := fun (f r : Bool) (op : BitVec 4) =>
      (Host.Outcome.next { s with reader := { s.reader with
        input := s.reader.input.drop 1, phase := .header1, fin := f, rsv1 := r, opcode := op } } :
        Host.Outcome State Fault Refusal)
    exec (.frameContinuation fin rsv1) s = told fin rsv1 0x0#4 ∧
    exec (.frameText fin rsv1) s = told fin rsv1 0x1#4 ∧
    exec (.frameBinary fin rsv1) s = told fin rsv1 0x2#4 ∧
    exec .frameClose s = told true false 0x8#4 ∧
    exec .framePing s = told true false 0x9#4 ∧
    exec .framePong s = told true false 0xA#4

/-- A header from byte 1 on tells the checker the payload length `n`, the key, and the header length
`H = 2 + E + 4·MASK`, and takes those bytes; the checker's registers are the model's (log entry 7). -/
def Obligations.LengthFormsRead : Prop :=
  ∀ (s : State) (key : Option Key),
    let told := fun (n : Len) (E : Nat) =>
      (Host.Outcome.next { s with reader := { s.reader with
        input := s.reader.input.drop (1 + E + 4 * key.isSome.toNat), phase := .payload, key := key, len := n
        headerLen := 2 + E + 4 * key.isSome.toNat } } :
        Host.Outcome State Fault Refusal)
    (∀ len7 : BitVec 7, exec (.lenL7 len7 key) s = told (BitVec.ofNat 64 len7.toNat) 0) ∧
    (∀ n : BitVec 16, exec (.lenL16 n key) s = told (BitVec.ofNat 64 n.toNat) 2) ∧
    (∀ n : BitVec 64, exec (.lenL64 n key) s = told n 8)

/-- The header forms act on the checker alone: every other field of the state stays, all of the block's among them.
The checker's registers are the model's (log entry 7). -/
def Obligations.HeaderFormsFrame : Prop :=
  ∀ (s t : State) (i : Instr), isCommand i = false → exec i s = .next t → { t with reader := s.reader } = s

/-- In three turns the checker reads the next frame the block emitted, whatever follows it: its flags, opcode, key,
length and header length, and the payload recovered exactly (R63, R67). Its registers are the model's (log entry 7). -/
def Obligations.CheckerReadsFrame : Prop :=
  ∀ (s : State) (f : Frame) (rest : List Byte), emittable f = true → s.reader.phase = .header0 →
    s.reader.input = frameWire f ++ rest →
    ∃ t₁ t₂ t₃, readerTurn s = .next t₁ ∧ readerTurn t₁ = .next t₂ ∧ readerTurn t₂ = .next t₃ ∧
      t₃ = { s with reader :=
        { input := rest, phase := .header0, fin := f.fin, rsv1 := f.rsv1, opcode := f.opcode, key := f.key
          len := BitVec.ofNat 64 f.payload.length, headerLen := (frameHeader f).length, payload := f.payload } }

/-! ### The machine -/

/-- A step runs the decoded instruction: ENC's turn runs the command on the port, the checker's turn runs the header
bytes it is at; the result is that of `exec`, and then the next turn is chosen (log entry 9). -/
def Obligations.StepRunsDecoded : Prop :=
  ∀ (s t : State) (i : Instr), exec i s = .next t →
    ((s.turn = .enc ∧ ∃ c, s.port = some c ∧ decode (.command c) = .ok i) ∨
     (s.turn = .reader ∧ s.reader.phase = .header0 ∧
      ∃ b rest, s.reader.input = b :: rest ∧ decode (.header0 b) = .ok i) ∨
     (s.turn = .reader ∧ s.reader.phase = .header1 ∧ decode (.header1 s.reader.input) = .ok i)) →
    step s = .next { t with turn := Config.schedule t.steps, steps := t.steps + 1 }

/-- No instruction stops the machine: from every state every instruction answers a next state. For a command that the spec
gives no step, stuck or held (R10, R32, R21), this is the model's choice: its turn leaves the state as it is (log entry
9). For a header form it is the model's choice too: it acts on the checker's registers (log entry 7). -/
def Obligations.ExecAnswersNext : Prop :=
  ∀ (s : State) (i : Instr), ∃ t, exec i s = .next t

/-- A step is refused only for a command with a reserved bit set (R61), and faults only where HOST stores outside the
memory or into a byte in flight (R31, R129); these faults are the model's (log entry 5). -/
def Obligations.StopsOnly : Prop :=
  ∀ s : State,
    (∀ r, step s = .refused r →
      r = .reservedBits ∧ s.turn = .enc ∧ ∃ c, s.port = some c ∧ c.cmd.extractLsb' 10 6 ≠ 0#6) ∧
    (∀ f, step s = .fault f → s.turn = .host ∧ ∃ a bs rest, s.host = .store a bs :: rest ∧
      (2 ^ s.cfg.addrW < a + bs.length ∨ ∃ x, a ≤ x ∧ x < a + bs.length ∧ heldByte s x))

/-- DRAIN's issue step: with a job queued and no write outstanding it presents the head job's next write and nothing
else changes (R88); while a write is outstanding or nothing is queued it has no step, which in the model is a turn that
leaves the state as it is, the model's choice (log entry 9). A step on DRAIN's turn is that, and then the next turn is
chosen (log entry 9). -/
def Obligations.DrainIssues : Prop :=
  ∀ s : State,
    (∀ j js w, s.drainBusy = false → s.fifo = j :: js →
      (writeList j.writes)[s.drainNext.toNat]? = some w →
      drainIssue s = { s with writes := s.writes ++ [w], drainBusy := true }) ∧
    (s.drainBusy = true ∨ s.fifo = [] → drainIssue s = s) ∧
    (s.turn = .drain → ∃ t, t = drainIssue s ∧
      step s = .next { t with turn := Config.schedule t.steps, steps := t.steps + 1 })

/-- DRAIN's answer step. On `OK`, if the head job has a write left it is next; else the job is popped and, if its `cb = 1`,
the completion port is driven with `OK`. On `ERR` the job is popped, its remaining write is not issued, and exactly one
port is driven with `TRANSPORT_WRITE_FAILURE`, chosen by `cb`. No other state of the block changes: `first_fragment`, the
key cache and the payload memory stay (R89, R108, R110). On `ERR` the checker's side stays as well: that the bytes of a
failed write do not reach it is the model's choice (log entry 7). -/
def Obligations.DrainAnswer : Prop :=
  ∀ (s : State) (j : Job) (js : List Job), s.drainBusy = true → s.fifo = j :: js →
    (s.drainNext.toNat + 1 < (writeList j.writes).length →
      { drainAnswer .ok s with reader := s.reader } = { s with
        drainBusy := false, drainNext := true, answers := s.answers ++ [.ok] }) ∧
    (s.drainNext.toNat + 1 = (writeList j.writes).length →
      { drainAnswer .ok s with reader := s.reader } = { s with
        drainBusy := false, drainNext := false, fifo := js, answers := s.answers ++ [.ok]
        completions := if j.cb then s.completions ++ [.ok] else s.completions }) ∧
    drainAnswer .err s = { s with
      drainBusy := false, drainNext := false, fifo := js, answers := s.answers ++ [.err]
      completions := if j.cb then s.completions ++ [.transportWriteFailure] else s.completions
      errorEvents := if j.cb then s.errorEvents else s.errorEvents ++ [.transportWriteFailure] }

/-- TRANSPORT's turn answers the outstanding write with its next answer, and has no step while none is outstanding; the
answer is a free value (log entry 8) and the turn the model's (log entry 9); the statement holds for every one (R90). -/
def Obligations.TransportTurn : Prop :=
  ∀ s : State, s.turn = .transport →
    ∃ t, t = (if s.drainBusy then drainAnswer (Config.answer s.answers.length) s else s) ∧
      step s = .next { t with turn := Config.schedule t.steps, steps := t.steps + 1 }

/-- Once every write of the head job is issued and answered `OK`, exactly its writes were presented, in order, and the
job is gone, with one completion iff its `cb = 1`, and exactly its bytes reached the checker, which is the model's (log
entry 7) (R88, R89, R92). -/
def Obligations.JobDrains : Prop :=
  ∀ (s : State) (j : Job) (js : List Job), s.drainBusy = false → s.drainNext = false → s.fifo = j :: js →
    let round := fun t => drainAnswer .ok (drainIssue t)
    let t := match j.writes with
      | .single _ => round s
      | .split _ _ => round (round s)
    t.fifo = js ∧ t.writes = s.writes ++ writeList j.writes ∧ t.drainNext = false ∧ t.drainBusy = false ∧
    t.completions = s.completions ++ (if j.cb then [.ok] else []) ∧ t.errorEvents = s.errorEvents ∧
    t.reader.input = s.reader.input ++ writeBytes j.writes

/-- Reset leaves the values the spec gives (R29, R123); what it gives no value for is not stated. -/
def Obligations.ResetValues : Prop :=
  State.reset.firstFragment = true ∧ State.reset.maskKeyValid = false ∧ State.reset.fifo = [] ∧
  State.reset.drainNext = false ∧ State.reset.drainBusy = false ∧ State.reset.port = none ∧
  State.reset.responses = [] ∧ State.reset.completions = [] ∧ State.reset.errorEvents = [] ∧
  State.reset.writes = [] ∧ State.reset.answers = [] ∧ State.reset.cfg.mergeThreshold = 32768

/-- The state at reset meets the invariant. -/
def Obligations.InvReset : Prop :=
  Inv State.reset

/-- Every step keeps the invariant: the memory's canonical form and bounds, the FIFO's depth (R21), the drain position
(R22), one outstanding write at most (R41), jobs that carry exactly one frame the block may emit (R53, R59, R60), and
statuses each port may carry (R106, R109). The memory's form is the model's (log entry 4). -/
def Obligations.InvStep : Prop :=
  ∀ s t : State, Inv s → step s = .next t → Inv t

/-- The configuration parameters do not change during the instance's life (R23, R124). -/
def Obligations.ConfigFixed : Prop :=
  ∀ s t : State, step s = .next t → t.cfg = s.cfg

/-- `first_fragment` is mutated only by SEND, which writes its FIN (R16, R94). -/
def Obligations.FragmentWrittenBySend : Prop :=
  ∀ s t : State, step s = .next t → t.firstFragment ≠ s.firstFragment →
    s.turn = .enc ∧ ∃ c fin bin cmp msk ro cb len buf, s.port = some c ∧
      decode (.command c) = .ok (.send fin bin cmp msk ro cb len buf) ∧ t.firstFragment = fin ∧
      t.fifo.length = s.fifo.length + 1

/-- `S.mask_key_valid` never returns to 0 during the instance's life, and a key once cached stays (R18, R72). -/
def Obligations.CachedKeyStays : Prop :=
  ∀ s t : State, step s = .next t → s.maskKeyValid = true → t.maskKeyValid = true ∧ t.maskKey = s.maskKey

/-- The payload memory is written by HOST's stores and by the split masked path of a SEND, PING or PONG with RO = 0,
and by nothing else (R38). HOST's list of actions is the model's (log entry 5). -/
def Obligations.MemoryWriters : Prop :=
  ∀ s t : State, step s = .next t →
    t.mem = s.mem ∨
    (s.turn = .host ∧ ∃ a bs rest, s.host = .store a bs :: rest ∧ t.mem = memWrite s.mem a bs) ∨
    (s.turn = .enc ∧ ∃ c i buf k, s.port = some c ∧ decode (.command c) = .ok i ∧ mutableBuffer i = some buf ∧
      writesBack s (isMasked i) false (payloadLength i) ∧ nextKey s true (payloadLength i) = some k ∧
      t.mem = memWrite s.mem buf (mask (memRead s.mem buf (payloadLength i)) k))

/-- Frame order and write serialisation: a step queues at most one job, at the tail, or pops the head when its
outstanding write is answered, and presents at most one write, the head job's next one, and only while none is
outstanding (R20, R40, R41). -/
def Obligations.QueueOrder : Prop :=
  ∀ s t : State, step s = .next t →
    (t.fifo = s.fifo ∨ (∃ j, t.fifo = s.fifo ++ [j]) ∨ (s.drainBusy = true ∧ ∃ j, s.fifo = j :: t.fifo)) ∧
    (t.writes = s.writes ∨ ∃ j js w, s.drainBusy = false ∧ s.fifo = j :: js ∧
      (writeList j.writes)[s.drainNext.toNat]? = some w ∧ t.writes = s.writes ++ [w] ∧ t.drainBusy = true)

/-- HOST presents its next command when the port is free and waits while it is not; a store inside the memory and outside
the bytes in flight, those of the range `[BUF, BUF + LEN)` of the command on the port and of the range of every queued
job, is done; a store past the end of the memory, or that meets a byte in flight, is no move of HOST's and faults (R24,
R31, R129). A step on HOST's turn is that, and after a next state the next turn is chosen. HOST's list of actions and its
faults are the model's (log entry 5), and so are a job's range (log entry 6) and the turns (log entry 9). -/
def Obligations.HostActs : Prop :=
  ∀ (s : State) (rest : List HostAction),
    (s.host = [] → hostAct s = .next s) ∧
    (∀ c, s.host = .present c :: rest →
      (s.port = none → hostAct s = .next { s with port := some c, host := rest }) ∧
      (s.port ≠ none → hostAct s = .next s)) ∧
    (∀ a bs, s.host = .store a bs :: rest → a + bs.length ≤ 2 ^ s.cfg.addrW →
      ((∀ x, a ≤ x → x < a + bs.length → ¬ heldByte s x) →
        hostAct s = .next { s with mem := memWrite s.mem a bs, host := rest }) ∧
      ((∃ x, a ≤ x ∧ x < a + bs.length ∧ heldByte s x) → hostAct s = .fault .hostStoreInFlight)) ∧
    (∀ a bs, s.host = .store a bs :: rest → 2 ^ s.cfg.addrW < a + bs.length →
      hostAct s = .fault .hostStoreOutside) ∧
    (s.turn = .host →
      (∀ t, hostAct s = .next t →
        step s = .next { t with turn := Config.schedule t.steps, steps := t.steps + 1 }) ∧
      (∀ f, hostAct s = .fault f → step s = .fault f))

/-- Two memories in canonical form that read the same at every address are the same data; the form is the model's (log
entry 4). -/
def Obligations.MemoryCanonical : Prop :=
  ∀ m m' : Memory, Memory.wf m = true → Memory.wf m' = true → (∀ a, readByte m a = readByte m' a) → m = m'

/-- The numeric status codes (R106). -/
def Obligations.StatusCodes : Prop :=
  statusCode .ok = 0#2 ∧ statusCode .invalidCloseCode = 1#2 ∧ statusCode .transportWriteFailure = 2#2 ∧
  statusCode .compressionFailure = 3#2

/-- The API forms expand to one command each, with the defaults of R62 and 0 for a field the table omits, RO of `ping` and
`pong` among them. Every form is the one without a callback; that another may be given is the model's choice, and that
the options of `send` leave RO to the buffer's kind is read from the table's row above (log entry 15). -/
def Obligations.ApiForms : Prop :=
  (∀ d : Buffer, apiSend d = .send true false false false d.readOnly false d.len d.addr) ∧
  (∀ (d : Buffer) (f m b c : Bool),
    apiSend d ⟨f, m, b, c⟩ = .send f b c m d.readOnly false d.len d.addr) ∧
  (apiPing = .ping false false false 0#64 0 ∧ apiPong = .pong false false false 0#64 0) ∧
  (∀ m, apiPing none m = .ping m false false 0#64 0 ∧ apiPong none m = .pong m false false 0#64 0) ∧
  (∀ (d : Buffer) (m : Bool), apiPing (some d) m = .ping m false false d.len d.addr ∧
    apiPong (some d) m = .pong m false false d.len d.addr) ∧
  (∀ valid : BitVec 16 → Bool, apiClose valid = .close false false .absent 0#64 0 ∧
    (∀ c, apiClose valid (some c) = .close false false (.given c (valid c)) 0#64 0) ∧
    (∀ c (r : Buffer) m, apiClose valid (some c) (some r) m =
      .close m false (.given c (valid c)) r.len r.addr))

/-- A run is finished when no command is on the command port, the FIFO is empty and no write is outstanding (R134). -/
def Obligations.FinishedRun : Prop :=
  ∀ s : State, finished s = true ↔ s.port = none ∧ s.fifo = [] ∧ s.drainBusy = false

/-- The turns of ENC and of the checker that run no instruction. ENC's turn with no command on the port leaves the state
but for the turn (R125). Every turn of the checker is `readerTurn`: with no byte there, with a header or a payload not
yet there whole, or lost, it leaves the state but for the turn; a byte 0 that no frame of the block has makes it lost; a
payload there whole is taken and unmasked with the header's key (R63, R67). That an agent with no step has a turn is the
model's choice (log entry 9), and the checker's registers are too (log entry 7). -/
def Obligations.TurnsWithoutInstruction : Prop :=
  ∀ s : State,
    let turned := fun t : State =>
      (Host.Outcome.next { t with turn := Config.schedule t.steps, steps := t.steps + 1 } :
        Host.Outcome State Fault Refusal)
    (s.turn = .enc → s.port = none → step s = turned s) ∧
    (s.turn = .reader →
      (∃ t, readerTurn s = .next t ∧ step s = turned t) ∧
      (s.reader.phase = .header0 → s.reader.input = [] → step s = turned s) ∧
      (∀ b rest e, s.reader.phase = .header0 → s.reader.input = b :: rest → decode (.header0 b) = .error e →
        step s = turned { s with reader := { s.reader with phase := .lost } }) ∧
      (∀ e, s.reader.phase = .header1 → decode (.header1 s.reader.input) = .error e → step s = turned s) ∧
      (s.reader.phase = .payload → s.reader.input.length < s.reader.len.toNat → step s = turned s) ∧
      (∀ p rest, s.reader.phase = .payload → s.reader.input = p ++ rest → p.length = s.reader.len.toNat →
        step s = turned { s with reader := { s.reader with
          input := rest
          phase := .header0
          payload := match s.reader.key with
            | none => p
            | some k => mask p k } }) ∧
      (s.reader.phase = .lost → step s = turned s))
end

