-- ==== Sys2Proof/Laws/Frame.lean ====
section
/-!
SUPPORT. The small laws of the frame primitives: key bytes and lanes, the masker byte by byte, the fields of the header
bytes, and big-endian numbers taken apart and put together.
-/

namespace Sys2Proof.Machine

/-! ### Keys -/

@[simp] theorem keyBytes_length (k : Key) : (keyBytes k).length = 4 := rfl

theorem keyField_length (key : Option Key) : (keyField key).length = if key.isSome then 4 else 0 := by
  cases key <;> rfl

/-- The bytes of a key, put together, are the key (R34). -/
theorem keyOfBytes_keyBytes (k : Key) :
    keyOfBytes (k.extractLsb' 24 8) (k.extractLsb' 16 8) (k.extractLsb' 8 8) (k.extractLsb' 0 8) = k := by
  unfold keyOfBytes
  rw [BitVec.extractLsb'_append_extractLsb'_eq_extractLsb' (by omega),
    BitVec.extractLsb'_append_extractLsb'_eq_extractLsb' (by omega),
    BitVec.extractLsb'_append_extractLsb'_eq_extractLsb' (by omega)]
  exact BitVec.extractLsb'_eq_self

/-- `takeKey` takes back the key field of a header and nothing else (R57). -/
theorem takeKey_keyField (key : Option Key) (rest : List Byte) :
    takeKey key.isSome (keyField key ++ rest) = .ok (key, rest) := by
  cases key with
  | none => rfl
  | some k =>
    simp only [keyField, keyBytes, Option.isSome_some, List.cons_append, List.nil_append, takeKey]
    rw [keyOfBytes_keyBytes]

/-- `keyLane` is the byte of the key that R66 indexes. -/
theorem keyBytes_getElem? (k : Key) (i : Nat) : (keyBytes k)[i % 4]? = some (keyLane k i) := by
  unfold keyLane keyBytes
  have h : i % 4 < 4 := Nat.mod_lt _ (by omega)
  generalize i % 4 = r at h
  rcases r with _ | _ | _ | _ | r
  · rfl
  · rfl
  · rfl
  · rfl
  · omega

/-! ### The masker -/

@[simp] theorem maskFrom_length (k : Key) (i : Nat) (p : List Byte) : (maskFrom k i p).length = p.length := by
  induction p generalizing i with
  | nil => rfl
  | cons b p ih => simp [maskFrom, ih]

@[simp] theorem mask_length (p : List Byte) (k : Key) : (mask p k).length = p.length :=
  maskFrom_length k 0 p

theorem maskFrom_getElem? (k : Key) (i j : Nat) (p : List Byte) :
    (maskFrom k i p)[j]? = (p[j]?).map (· ^^^ keyLane k (i + j)) := by
  induction p generalizing i j with
  | nil => simp [maskFrom]
  | cons b p ih =>
    cases j with
    | zero => simp [maskFrom]
    | succ j =>
      simp only [maskFrom, List.getElem?_cons_succ, ih]
      rw [show i + 1 + j = i + (j + 1) by omega]

/-- The masker at one offset (R66). -/
theorem mask_getElem? (p : List Byte) (k : Key) (j : Nat) :
    (mask p k)[j]? = (p[j]?).map (· ^^^ keyLane k j) := by
  unfold mask
  rw [maskFrom_getElem?, Nat.zero_add]

@[simp] theorem frameBody_length (p : List Byte) (key : Option Key) : (frameBody p key).length = p.length := by
  cases key <;> simp [frameBody]

/-! ### Header bytes -/

theorem headerByte1_masked (masked : Bool) (len7 : BitVec 7) : (headerByte1 masked len7).getLsbD 7 = masked := by
  unfold headerByte1
  rw [BitVec.getLsbD_append]
  simp

@[simp] theorem headerByte1_len7 (masked : Bool) (len7 : BitVec 7) :
    (headerByte1 masked len7).extractLsb' 0 7 = len7 :=
  BitVec.extractLsb'_append_eq_right

theorem headerByte0_fin (fin rsv1 : Bool) (opcode : BitVec 4) :
    (headerByte0 fin rsv1 opcode).getLsbD 7 = fin := by
  unfold headerByte0
  rw [BitVec.getLsbD_append, BitVec.getLsbD_append, BitVec.getLsbD_append]
  simp

theorem headerByte0_rsv1 (fin rsv1 : Bool) (opcode : BitVec 4) :
    (headerByte0 fin rsv1 opcode).getLsbD 6 = rsv1 := by
  unfold headerByte0
  rw [BitVec.getLsbD_append, BitVec.getLsbD_append, BitVec.getLsbD_append]
  simp

@[simp] theorem headerByte0_opcode (fin rsv1 : Bool) (opcode : BitVec 4) :
    (headerByte0 fin rsv1 opcode).extractLsb' 0 4 = opcode :=
  BitVec.extractLsb'_append_eq_right

/-! ### Big-endian numbers -/

@[simp] theorem be16_length (v : BitVec 16) : (be16 v).length = 2 := rfl

@[simp] theorem be64_length (v : BitVec 64) : (be64 v).length = 8 := rfl

/-- The two bytes of a 16-bit number, put together, are the number (R34). -/
theorem be16_join (v : BitVec 16) : v.extractLsb' 8 8 ++ v.extractLsb' 0 8 = v := by
  rw [BitVec.extractLsb'_append_extractLsb'_eq_extractLsb' (by omega)]
  exact BitVec.extractLsb'_eq_self

/-- The eight bytes of a 64-bit number, put together, are the number (R34). -/
theorem be64_join (v : BitVec 64) :
    v.extractLsb' 56 8 ++ v.extractLsb' 48 8 ++ v.extractLsb' 40 8 ++ v.extractLsb' 32 8 ++ v.extractLsb' 24 8 ++
      v.extractLsb' 16 8 ++ v.extractLsb' 8 8 ++ v.extractLsb' 0 8 = v := by
  rw [BitVec.extractLsb'_append_extractLsb'_eq_extractLsb' (by omega),
    BitVec.extractLsb'_append_extractLsb'_eq_extractLsb' (by omega),
    BitVec.extractLsb'_append_extractLsb'_eq_extractLsb' (by omega),
    BitVec.extractLsb'_append_extractLsb'_eq_extractLsb' (by omega),
    BitVec.extractLsb'_append_extractLsb'_eq_extractLsb' (by omega),
    BitVec.extractLsb'_append_extractLsb'_eq_extractLsb' (by omega),
    BitVec.extractLsb'_append_extractLsb'_eq_extractLsb' (by omega)]
  exact BitVec.extractLsb'_eq_self

end Sys2Proof.Machine
end

