-- ==== Sys2Proof/Laws/Memory.lean ====
section
/-!
SUPPORT. The laws of the payload memory: a read after a write, every other place left alone, and the canonical form kept
by every memory operation.
-/

namespace Sys2Proof.Machine

/-! ### The canonical form -/

theorem sortedFrom_mono {lo lo' : Nat} {m : Memory} (h : sortedFrom lo' m = true) (hlo : lo ≤ lo') :
    sortedFrom lo m = true := by
  cases m with
  | nil => rfl
  | cons c m =>
    obtain ⟨k, v⟩ := c
    simp only [sortedFrom, Bool.and_eq_true, decide_eq_true_eq] at h ⊢
    exact ⟨⟨by omega, h.1.2⟩, h.2⟩

theorem sortedFrom_listCell {lo a : Nat} {b : Byte} {m : Memory} (hlo : lo ≤ a)
    (h : sortedFrom (a + 1) m = true) : sortedFrom lo (listCell a b m) = true := by
  unfold listCell
  split
  · exact sortedFrom_mono h (by omega)
  · simp_all [sortedFrom]

theorem sortedFrom_writeByte {lo a : Nat} {b : Byte} {m : Memory} (h : sortedFrom lo m = true) (hlo : lo ≤ a) :
    sortedFrom lo (writeByte m a b) = true := by
  induction m generalizing lo with
  | nil => exact sortedFrom_listCell hlo rfl
  | cons c m ih =>
    obtain ⟨k, v⟩ := c
    have h' := h
    simp only [sortedFrom, Bool.and_eq_true, decide_eq_true_eq] at h'
    obtain ⟨⟨hk, hv⟩, hm⟩ := h'
    unfold writeByte
    split
    · next hka => simp [sortedFrom, hk, hv, ih hm (by omega : k + 1 ≤ a)]
    · split
      · next hka => subst hka; exact sortedFrom_listCell hlo hm
      · refine sortedFrom_listCell hlo ?_
        simp only [sortedFrom, Bool.and_eq_true, decide_eq_true_eq]
        exact ⟨⟨by omega, hv⟩, hm⟩

/-- Writing one byte keeps the canonical form. -/
theorem writeByte_wf {m : Memory} (a : Nat) (b : Byte) (h : Memory.wf m = true) :
    Memory.wf (writeByte m a b) = true :=
  sortedFrom_writeByte h (Nat.zero_le a)

/-- `MemWrite` keeps the canonical form. -/
theorem memWrite_wf {m : Memory} (a : Nat) (bs : List Byte) (h : Memory.wf m = true) :
    Memory.wf (memWrite m a bs) = true := by
  induction bs generalizing m a with
  | nil => exact h
  | cons b bs ih => exact ih (a + 1) (writeByte_wf a b h)

/-- The memory at reset, nothing listed, is canonical. -/
theorem reset_mem_wf : Memory.wf State.reset.mem = true := rfl

/-! ### Reading one byte -/

theorem readByte_below {lo x : Nat} {m : Memory} (h : sortedFrom lo m = true) (hx : x < lo) :
    readByte m x = unlistedByte := by
  induction m generalizing lo with
  | nil => rfl
  | cons c m ih =>
    obtain ⟨k, v⟩ := c
    simp only [sortedFrom, Bool.and_eq_true, decide_eq_true_eq] at h
    have hkx : k ≠ x := by omega
    simp only [readByte, hkx, if_false]
    exact ih h.2 (by omega)

theorem readByte_listCell {a x : Nat} {b : Byte} {m : Memory} (h : sortedFrom (a + 1) m = true) :
    readByte (listCell a b m) x = if x = a then b else readByte m x := by
  unfold listCell
  by_cases hxa : x = a
  · subst hxa
    split
    · next hb => simp [readByte_below h (Nat.lt_succ_self x), hb]
    · simp [readByte]
  · have hax : a ≠ x := fun e => hxa e.symm
    simp only [hxa, if_false]
    split <;> simp [readByte, hax]

theorem readByte_writeByte_from {lo a x : Nat} {b : Byte} {m : Memory} (h : sortedFrom lo m = true) :
    readByte (writeByte m a b) x = if x = a then b else readByte m x := by
  induction m generalizing lo with
  | nil => exact readByte_listCell rfl
  | cons c m ih =>
    obtain ⟨k, v⟩ := c
    have h' := h
    simp only [sortedFrom, Bool.and_eq_true, decide_eq_true_eq] at h'
    obtain ⟨⟨hk, hv⟩, hm⟩ := h'
    unfold writeByte
    split
    · next hka =>
      simp only [readByte, ih hm]
      by_cases hkx : k = x
      · have : x ≠ a := by omega
        simp [hkx, this]
      · simp [hkx]
    · split
      · next hka =>
        subst hka
        rw [readByte_listCell hm]
        by_cases hx : x = k
        · simp [hx]
        · have : k ≠ x := fun e => hx e.symm
          simp [readByte, hx, this]
      · next h1 h2 =>
        refine readByte_listCell ?_
        simp only [sortedFrom, Bool.and_eq_true, decide_eq_true_eq]
        exact ⟨⟨by omega, hv⟩, hm⟩

/-- A read after a write: the byte written at its place, every other place as before. -/
theorem readByte_writeByte {m : Memory} (h : Memory.wf m = true) (a x : Nat) (b : Byte) :
    readByte (writeByte m a b) x = if x = a then b else readByte m x :=
  readByte_writeByte_from h

/-! ### Whole ranges -/

@[simp] theorem memRead_length (m : Memory) (a n : Nat) : (memRead m a n).length = n := by
  induction n generalizing a with
  | zero => rfl
  | succ n ih => simp [memRead, ih]

/-- `MemRead` gives the bytes in rising order (R34). -/
theorem memRead_getElem? (m : Memory) (a n i : Nat) (h : i < n) :
    (memRead m a n)[i]? = some (readByte m (a + i)) := by
  induction n generalizing a i with
  | zero => omega
  | succ n ih =>
    cases i with
    | zero => simp [memRead]
    | succ i =>
      simp only [memRead, List.getElem?_cons_succ]
      rw [ih (a + 1) i (by omega)]
      congr 2
      omega

/-- A read after `MemWrite`: inside the range the bytes written, outside it every place as before. -/
theorem readByte_memWrite {m : Memory} (h : Memory.wf m = true) (a x : Nat) (bs : List Byte) :
    readByte (memWrite m a bs) x =
      if a ≤ x then (bs[x - a]?).getD (readByte m x) else readByte m x := by
  induction bs generalizing m a with
  | nil => simp [memWrite]
  | cons b bs ih =>
    simp only [memWrite]
    rw [ih (writeByte_wf a b h) (a + 1), readByte_writeByte h]
    rcases Nat.lt_trichotomy x a with hlt | heq | hgt
    · have h1 : ¬ a + 1 ≤ x := by omega
      have h2 : ¬ a ≤ x := by omega
      have h3 : x ≠ a := by omega
      simp [h1, h2, h3]
    · subst heq
      simp
    · obtain ⟨d, rfl⟩ : ∃ d, x = a + 1 + d := ⟨x - (a + 1), by omega⟩
      have h1 : a + 1 + d - a = d + 1 := by omega
      have h2 : a + 1 + d ≠ a := by omega
      have h3 : a ≤ a + 1 + d := by omega
      simp [h1, h2, h3]

/-- Outside the range written, every byte reads as before. -/
theorem readByte_memWrite_outside {m : Memory} (h : Memory.wf m = true) {a x : Nat} {bs : List Byte}
    (hx : x < a ∨ a + bs.length ≤ x) : readByte (memWrite m a bs) x = readByte m x := by
  rw [readByte_memWrite h]
  split
  · rw [List.getElem?_eq_none (by omega)]
    rfl
  · rfl

/-- A cell of the memory after a byte is written was there before, or is the byte written. -/
theorem mem_writeByte {m : Memory} {a : Nat} {b : Byte} {c : Host.Cell} (h : c ∈ writeByte m a b) :
    c ∈ m ∨ c.1 = a := by
  have hl : ∀ {m' : Memory}, c ∈ listCell a b m' → c ∈ m' ∨ c.1 = a := by
    intro m' hc
    unfold listCell at hc
    split at hc
    · exact .inl hc
    · rcases List.mem_cons.mp hc with rfl | hc
      · exact .inr rfl
      · exact .inl hc
  induction m with
  | nil => exact hl h
  | cons d m ih =>
    obtain ⟨k, v⟩ := d
    unfold writeByte at h
    split at h
    · rcases List.mem_cons.mp h with rfl | h
      · exact .inl (List.mem_cons_self ..)
      · exact (ih h).imp_left (List.mem_cons_of_mem _)
    · split at h
      · exact (hl h).imp_left (List.mem_cons_of_mem _)
      · exact hl h

/-- `MemWrite` lists no address outside the range it writes. -/
theorem mem_memWrite {m : Memory} {a : Nat} {bs : List Byte} {c : Host.Cell} (h : c ∈ memWrite m a bs) :
    c ∈ m ∨ (a ≤ c.1 ∧ c.1 < a + bs.length) := by
  induction bs generalizing m a with
  | nil => exact .inl h
  | cons b bs ih =>
    rcases ih h with h | h
    · rcases mem_writeByte h with h | h
      · exact .inl h
      · exact .inr ⟨by omega, by simp; omega⟩
    · exact .inr ⟨by omega, by simp; omega⟩

end Sys2Proof.Machine
end

