-- ==== Sys2Proof/Laws/State.lean ====
section
/-!
SUPPORT. What each update of the state leaves in each field. Cited by every proof, so that none unfolds an update.
-/

namespace Sys2Proof.Machine

/-! ### respond -/

@[simp] theorem respond_cfg (st : Status) (s : State) : (respond st s).cfg = s.cfg := rfl
@[simp] theorem respond_firstFragment (st : Status) (s : State) : (respond st s).firstFragment = s.firstFragment := rfl
@[simp] theorem respond_maskKey (st : Status) (s : State) : (respond st s).maskKey = s.maskKey := rfl
@[simp] theorem respond_maskKeyValid (st : Status) (s : State) : (respond st s).maskKeyValid = s.maskKeyValid := rfl
@[simp] theorem respond_fifo (st : Status) (s : State) : (respond st s).fifo = s.fifo := rfl
@[simp] theorem respond_drainNext (st : Status) (s : State) : (respond st s).drainNext = s.drainNext := rfl
@[simp] theorem respond_drainBusy (st : Status) (s : State) : (respond st s).drainBusy = s.drainBusy := rfl
@[simp] theorem respond_port (st : Status) (s : State) : (respond st s).port = s.port := rfl
@[simp] theorem respond_responses (st : Status) (s : State) : (respond st s).responses = s.responses ++ [st] := rfl
@[simp] theorem respond_completions (st : Status) (s : State) : (respond st s).completions = s.completions := rfl
@[simp] theorem respond_errorEvents (st : Status) (s : State) : (respond st s).errorEvents = s.errorEvents := rfl
@[simp] theorem respond_writes (st : Status) (s : State) : (respond st s).writes = s.writes := rfl
@[simp] theorem respond_answers (st : Status) (s : State) : (respond st s).answers = s.answers := rfl
@[simp] theorem respond_mem (st : Status) (s : State) : (respond st s).mem = s.mem := rfl
@[simp] theorem respond_host (st : Status) (s : State) : (respond st s).host = s.host := rfl
@[simp] theorem respond_reader (st : Status) (s : State) : (respond st s).reader = s.reader := rfl
@[simp] theorem respond_draws (st : Status) (s : State) : (respond st s).draws = s.draws := rfl
@[simp] theorem respond_steps (st : Status) (s : State) : (respond st s).steps = s.steps := rfl
@[simp] theorem respond_turn (st : Status) (s : State) : (respond st s).turn = s.turn := rfl

/-! ### complete -/

@[simp] theorem complete_cfg (st : Status) (s : State) : (complete st s).cfg = s.cfg := rfl
@[simp] theorem complete_firstFragment (st : Status) (s : State) : (complete st s).firstFragment = s.firstFragment := rfl
@[simp] theorem complete_maskKey (st : Status) (s : State) : (complete st s).maskKey = s.maskKey := rfl
@[simp] theorem complete_maskKeyValid (st : Status) (s : State) : (complete st s).maskKeyValid = s.maskKeyValid := rfl
@[simp] theorem complete_fifo (st : Status) (s : State) : (complete st s).fifo = s.fifo := rfl
@[simp] theorem complete_drainNext (st : Status) (s : State) : (complete st s).drainNext = s.drainNext := rfl
@[simp] theorem complete_drainBusy (st : Status) (s : State) : (complete st s).drainBusy = s.drainBusy := rfl
@[simp] theorem complete_port (st : Status) (s : State) : (complete st s).port = s.port := rfl
@[simp] theorem complete_responses (st : Status) (s : State) : (complete st s).responses = s.responses := rfl
@[simp] theorem complete_completions (st : Status) (s : State) : (complete st s).completions = s.completions ++ [st] := rfl
@[simp] theorem complete_errorEvents (st : Status) (s : State) : (complete st s).errorEvents = s.errorEvents := rfl
@[simp] theorem complete_writes (st : Status) (s : State) : (complete st s).writes = s.writes := rfl
@[simp] theorem complete_answers (st : Status) (s : State) : (complete st s).answers = s.answers := rfl
@[simp] theorem complete_mem (st : Status) (s : State) : (complete st s).mem = s.mem := rfl
@[simp] theorem complete_host (st : Status) (s : State) : (complete st s).host = s.host := rfl
@[simp] theorem complete_reader (st : Status) (s : State) : (complete st s).reader = s.reader := rfl
@[simp] theorem complete_draws (st : Status) (s : State) : (complete st s).draws = s.draws := rfl
@[simp] theorem complete_steps (st : Status) (s : State) : (complete st s).steps = s.steps := rfl
@[simp] theorem complete_turn (st : Status) (s : State) : (complete st s).turn = s.turn := rfl

/-! ### errorEvent -/

@[simp] theorem errorEvent_cfg (st : Status) (s : State) : (errorEvent st s).cfg = s.cfg := rfl
@[simp] theorem errorEvent_firstFragment (st : Status) (s : State) : (errorEvent st s).firstFragment = s.firstFragment := rfl
@[simp] theorem errorEvent_maskKey (st : Status) (s : State) : (errorEvent st s).maskKey = s.maskKey := rfl
@[simp] theorem errorEvent_maskKeyValid (st : Status) (s : State) : (errorEvent st s).maskKeyValid = s.maskKeyValid := rfl
@[simp] theorem errorEvent_fifo (st : Status) (s : State) : (errorEvent st s).fifo = s.fifo := rfl
@[simp] theorem errorEvent_drainNext (st : Status) (s : State) : (errorEvent st s).drainNext = s.drainNext := rfl
@[simp] theorem errorEvent_drainBusy (st : Status) (s : State) : (errorEvent st s).drainBusy = s.drainBusy := rfl
@[simp] theorem errorEvent_port (st : Status) (s : State) : (errorEvent st s).port = s.port := rfl
@[simp] theorem errorEvent_responses (st : Status) (s : State) : (errorEvent st s).responses = s.responses := rfl
@[simp] theorem errorEvent_completions (st : Status) (s : State) : (errorEvent st s).completions = s.completions := rfl
@[simp] theorem errorEvent_errorEvents (st : Status) (s : State) : (errorEvent st s).errorEvents = s.errorEvents ++ [st] := rfl
@[simp] theorem errorEvent_writes (st : Status) (s : State) : (errorEvent st s).writes = s.writes := rfl
@[simp] theorem errorEvent_answers (st : Status) (s : State) : (errorEvent st s).answers = s.answers := rfl
@[simp] theorem errorEvent_mem (st : Status) (s : State) : (errorEvent st s).mem = s.mem := rfl
@[simp] theorem errorEvent_host (st : Status) (s : State) : (errorEvent st s).host = s.host := rfl
@[simp] theorem errorEvent_reader (st : Status) (s : State) : (errorEvent st s).reader = s.reader := rfl
@[simp] theorem errorEvent_draws (st : Status) (s : State) : (errorEvent st s).draws = s.draws := rfl
@[simp] theorem errorEvent_steps (st : Status) (s : State) : (errorEvent st s).steps = s.steps := rfl
@[simp] theorem errorEvent_turn (st : Status) (s : State) : (errorEvent st s).turn = s.turn := rfl

/-! ### takeCommand -/

@[simp] theorem takeCommand_cfg (s : State) : (takeCommand s).cfg = s.cfg := rfl
@[simp] theorem takeCommand_firstFragment (s : State) : (takeCommand s).firstFragment = s.firstFragment := rfl
@[simp] theorem takeCommand_maskKey (s : State) : (takeCommand s).maskKey = s.maskKey := rfl
@[simp] theorem takeCommand_maskKeyValid (s : State) : (takeCommand s).maskKeyValid = s.maskKeyValid := rfl
@[simp] theorem takeCommand_fifo (s : State) : (takeCommand s).fifo = s.fifo := rfl
@[simp] theorem takeCommand_drainNext (s : State) : (takeCommand s).drainNext = s.drainNext := rfl
@[simp] theorem takeCommand_drainBusy (s : State) : (takeCommand s).drainBusy = s.drainBusy := rfl
@[simp] theorem takeCommand_port (s : State) : (takeCommand s).port = none := rfl
@[simp] theorem takeCommand_responses (s : State) : (takeCommand s).responses = s.responses := rfl
@[simp] theorem takeCommand_completions (s : State) : (takeCommand s).completions = s.completions := rfl
@[simp] theorem takeCommand_errorEvents (s : State) : (takeCommand s).errorEvents = s.errorEvents := rfl
@[simp] theorem takeCommand_writes (s : State) : (takeCommand s).writes = s.writes := rfl
@[simp] theorem takeCommand_answers (s : State) : (takeCommand s).answers = s.answers := rfl
@[simp] theorem takeCommand_mem (s : State) : (takeCommand s).mem = s.mem := rfl
@[simp] theorem takeCommand_host (s : State) : (takeCommand s).host = s.host := rfl
@[simp] theorem takeCommand_reader (s : State) : (takeCommand s).reader = s.reader := rfl
@[simp] theorem takeCommand_draws (s : State) : (takeCommand s).draws = s.draws := rfl
@[simp] theorem takeCommand_steps (s : State) : (takeCommand s).steps = s.steps := rfl
@[simp] theorem takeCommand_turn (s : State) : (takeCommand s).turn = s.turn := rfl

/-! ### enqueue -/

@[simp] theorem enqueue_cfg (j : Job) (s : State) : (enqueue j s).cfg = s.cfg := rfl
@[simp] theorem enqueue_firstFragment (j : Job) (s : State) : (enqueue j s).firstFragment = s.firstFragment := rfl
@[simp] theorem enqueue_maskKey (j : Job) (s : State) : (enqueue j s).maskKey = s.maskKey := rfl
@[simp] theorem enqueue_maskKeyValid (j : Job) (s : State) : (enqueue j s).maskKeyValid = s.maskKeyValid := rfl
@[simp] theorem enqueue_fifo (j : Job) (s : State) : (enqueue j s).fifo = s.fifo ++ [j] := rfl
@[simp] theorem enqueue_drainNext (j : Job) (s : State) : (enqueue j s).drainNext = s.drainNext := rfl
@[simp] theorem enqueue_drainBusy (j : Job) (s : State) : (enqueue j s).drainBusy = s.drainBusy := rfl
@[simp] theorem enqueue_port (j : Job) (s : State) : (enqueue j s).port = s.port := rfl
@[simp] theorem enqueue_responses (j : Job) (s : State) : (enqueue j s).responses = s.responses := rfl
@[simp] theorem enqueue_completions (j : Job) (s : State) : (enqueue j s).completions = s.completions := rfl
@[simp] theorem enqueue_errorEvents (j : Job) (s : State) : (enqueue j s).errorEvents = s.errorEvents := rfl
@[simp] theorem enqueue_writes (j : Job) (s : State) : (enqueue j s).writes = s.writes := rfl
@[simp] theorem enqueue_answers (j : Job) (s : State) : (enqueue j s).answers = s.answers := rfl
@[simp] theorem enqueue_mem (j : Job) (s : State) : (enqueue j s).mem = s.mem := rfl
@[simp] theorem enqueue_host (j : Job) (s : State) : (enqueue j s).host = s.host := rfl
@[simp] theorem enqueue_reader (j : Job) (s : State) : (enqueue j s).reader = s.reader := rfl
@[simp] theorem enqueue_draws (j : Job) (s : State) : (enqueue j s).draws = s.draws := rfl
@[simp] theorem enqueue_steps (j : Job) (s : State) : (enqueue j s).steps = s.steps := rfl
@[simp] theorem enqueue_turn (j : Job) (s : State) : (enqueue j s).turn = s.turn := rfl

/-! ### popJob -/

@[simp] theorem popJob_cfg (s : State) : (popJob s).cfg = s.cfg := rfl
@[simp] theorem popJob_firstFragment (s : State) : (popJob s).firstFragment = s.firstFragment := rfl
@[simp] theorem popJob_maskKey (s : State) : (popJob s).maskKey = s.maskKey := rfl
@[simp] theorem popJob_maskKeyValid (s : State) : (popJob s).maskKeyValid = s.maskKeyValid := rfl
@[simp] theorem popJob_fifo (s : State) : (popJob s).fifo = s.fifo.tail := rfl
@[simp] theorem popJob_drainNext (s : State) : (popJob s).drainNext = false := rfl
@[simp] theorem popJob_drainBusy (s : State) : (popJob s).drainBusy = s.drainBusy := rfl
@[simp] theorem popJob_port (s : State) : (popJob s).port = s.port := rfl
@[simp] theorem popJob_responses (s : State) : (popJob s).responses = s.responses := rfl
@[simp] theorem popJob_completions (s : State) : (popJob s).completions = s.completions := rfl
@[simp] theorem popJob_errorEvents (s : State) : (popJob s).errorEvents = s.errorEvents := rfl
@[simp] theorem popJob_writes (s : State) : (popJob s).writes = s.writes := rfl
@[simp] theorem popJob_answers (s : State) : (popJob s).answers = s.answers := rfl
@[simp] theorem popJob_mem (s : State) : (popJob s).mem = s.mem := rfl
@[simp] theorem popJob_host (s : State) : (popJob s).host = s.host := rfl
@[simp] theorem popJob_reader (s : State) : (popJob s).reader = s.reader := rfl
@[simp] theorem popJob_draws (s : State) : (popJob s).draws = s.draws := rfl
@[simp] theorem popJob_steps (s : State) : (popJob s).steps = s.steps := rfl
@[simp] theorem popJob_turn (s : State) : (popJob s).turn = s.turn := rfl

/-! ### deliver -/

@[simp] theorem deliver_cfg (bytes : List Byte) (s : State) : (deliver bytes s).cfg = s.cfg := rfl
@[simp] theorem deliver_firstFragment (bytes : List Byte) (s : State) : (deliver bytes s).firstFragment = s.firstFragment := rfl
@[simp] theorem deliver_maskKey (bytes : List Byte) (s : State) : (deliver bytes s).maskKey = s.maskKey := rfl
@[simp] theorem deliver_maskKeyValid (bytes : List Byte) (s : State) : (deliver bytes s).maskKeyValid = s.maskKeyValid := rfl
@[simp] theorem deliver_fifo (bytes : List Byte) (s : State) : (deliver bytes s).fifo = s.fifo := rfl
@[simp] theorem deliver_drainNext (bytes : List Byte) (s : State) : (deliver bytes s).drainNext = s.drainNext := rfl
@[simp] theorem deliver_drainBusy (bytes : List Byte) (s : State) : (deliver bytes s).drainBusy = s.drainBusy := rfl
@[simp] theorem deliver_port (bytes : List Byte) (s : State) : (deliver bytes s).port = s.port := rfl
@[simp] theorem deliver_responses (bytes : List Byte) (s : State) : (deliver bytes s).responses = s.responses := rfl
@[simp] theorem deliver_completions (bytes : List Byte) (s : State) : (deliver bytes s).completions = s.completions := rfl
@[simp] theorem deliver_errorEvents (bytes : List Byte) (s : State) : (deliver bytes s).errorEvents = s.errorEvents := rfl
@[simp] theorem deliver_writes (bytes : List Byte) (s : State) : (deliver bytes s).writes = s.writes := rfl
@[simp] theorem deliver_answers (bytes : List Byte) (s : State) : (deliver bytes s).answers = s.answers := rfl
@[simp] theorem deliver_mem (bytes : List Byte) (s : State) : (deliver bytes s).mem = s.mem := rfl
@[simp] theorem deliver_host (bytes : List Byte) (s : State) : (deliver bytes s).host = s.host := rfl
@[simp] theorem deliver_reader (bytes : List Byte) (s : State) : (deliver bytes s).reader = { s.reader with input := s.reader.input ++ bytes } := rfl
@[simp] theorem deliver_draws (bytes : List Byte) (s : State) : (deliver bytes s).draws = s.draws := rfl
@[simp] theorem deliver_steps (bytes : List Byte) (s : State) : (deliver bytes s).steps = s.steps := rfl
@[simp] theorem deliver_turn (bytes : List Byte) (s : State) : (deliver bytes s).turn = s.turn := rfl

/-! ### readByte0 -/

@[simp] theorem readByte0_cfg (fin rsv1 : Bool) (opcode : BitVec 4) (s : State) : (readByte0 fin rsv1 opcode s).cfg = s.cfg := rfl
@[simp] theorem readByte0_firstFragment (fin rsv1 : Bool) (opcode : BitVec 4) (s : State) : (readByte0 fin rsv1 opcode s).firstFragment = s.firstFragment := rfl
@[simp] theorem readByte0_maskKey (fin rsv1 : Bool) (opcode : BitVec 4) (s : State) : (readByte0 fin rsv1 opcode s).maskKey = s.maskKey := rfl
@[simp] theorem readByte0_maskKeyValid (fin rsv1 : Bool) (opcode : BitVec 4) (s : State) : (readByte0 fin rsv1 opcode s).maskKeyValid = s.maskKeyValid := rfl
@[simp] theorem readByte0_fifo (fin rsv1 : Bool) (opcode : BitVec 4) (s : State) : (readByte0 fin rsv1 opcode s).fifo = s.fifo := rfl
@[simp] theorem readByte0_drainNext (fin rsv1 : Bool) (opcode : BitVec 4) (s : State) : (readByte0 fin rsv1 opcode s).drainNext = s.drainNext := rfl
@[simp] theorem readByte0_drainBusy (fin rsv1 : Bool) (opcode : BitVec 4) (s : State) : (readByte0 fin rsv1 opcode s).drainBusy = s.drainBusy := rfl
@[simp] theorem readByte0_port (fin rsv1 : Bool) (opcode : BitVec 4) (s : State) : (readByte0 fin rsv1 opcode s).port = s.port := rfl
@[simp] theorem readByte0_responses (fin rsv1 : Bool) (opcode : BitVec 4) (s : State) : (readByte0 fin rsv1 opcode s).responses = s.responses := rfl
@[simp] theorem readByte0_completions (fin rsv1 : Bool) (opcode : BitVec 4) (s : State) : (readByte0 fin rsv1 opcode s).completions = s.completions := rfl
@[simp] theorem readByte0_errorEvents (fin rsv1 : Bool) (opcode : BitVec 4) (s : State) : (readByte0 fin rsv1 opcode s).errorEvents = s.errorEvents := rfl
@[simp] theorem readByte0_writes (fin rsv1 : Bool) (opcode : BitVec 4) (s : State) : (readByte0 fin rsv1 opcode s).writes = s.writes := rfl
@[simp] theorem readByte0_answers (fin rsv1 : Bool) (opcode : BitVec 4) (s : State) : (readByte0 fin rsv1 opcode s).answers = s.answers := rfl
@[simp] theorem readByte0_mem (fin rsv1 : Bool) (opcode : BitVec 4) (s : State) : (readByte0 fin rsv1 opcode s).mem = s.mem := rfl
@[simp] theorem readByte0_host (fin rsv1 : Bool) (opcode : BitVec 4) (s : State) : (readByte0 fin rsv1 opcode s).host = s.host := rfl
@[simp] theorem readByte0_draws (fin rsv1 : Bool) (opcode : BitVec 4) (s : State) : (readByte0 fin rsv1 opcode s).draws = s.draws := rfl
@[simp] theorem readByte0_steps (fin rsv1 : Bool) (opcode : BitVec 4) (s : State) : (readByte0 fin rsv1 opcode s).steps = s.steps := rfl
@[simp] theorem readByte0_turn (fin rsv1 : Bool) (opcode : BitVec 4) (s : State) : (readByte0 fin rsv1 opcode s).turn = s.turn := rfl

/-! ### readLength -/

@[simp] theorem readLength_cfg (n : Len) (key : Option Key) (size : Nat) (s : State) : (readLength n key size s).cfg = s.cfg := rfl
@[simp] theorem readLength_firstFragment (n : Len) (key : Option Key) (size : Nat) (s : State) : (readLength n key size s).firstFragment = s.firstFragment := rfl
@[simp] theorem readLength_maskKey (n : Len) (key : Option Key) (size : Nat) (s : State) : (readLength n key size s).maskKey = s.maskKey := rfl
@[simp] theorem readLength_maskKeyValid (n : Len) (key : Option Key) (size : Nat) (s : State) : (readLength n key size s).maskKeyValid = s.maskKeyValid := rfl
@[simp] theorem readLength_fifo (n : Len) (key : Option Key) (size : Nat) (s : State) : (readLength n key size s).fifo = s.fifo := rfl
@[simp] theorem readLength_drainNext (n : Len) (key : Option Key) (size : Nat) (s : State) : (readLength n key size s).drainNext = s.drainNext := rfl
@[simp] theorem readLength_drainBusy (n : Len) (key : Option Key) (size : Nat) (s : State) : (readLength n key size s).drainBusy = s.drainBusy := rfl
@[simp] theorem readLength_port (n : Len) (key : Option Key) (size : Nat) (s : State) : (readLength n key size s).port = s.port := rfl
@[simp] theorem readLength_responses (n : Len) (key : Option Key) (size : Nat) (s : State) : (readLength n key size s).responses = s.responses := rfl
@[simp] theorem readLength_completions (n : Len) (key : Option Key) (size : Nat) (s : State) : (readLength n key size s).completions = s.completions := rfl
@[simp] theorem readLength_errorEvents (n : Len) (key : Option Key) (size : Nat) (s : State) : (readLength n key size s).errorEvents = s.errorEvents := rfl
@[simp] theorem readLength_writes (n : Len) (key : Option Key) (size : Nat) (s : State) : (readLength n key size s).writes = s.writes := rfl
@[simp] theorem readLength_answers (n : Len) (key : Option Key) (size : Nat) (s : State) : (readLength n key size s).answers = s.answers := rfl
@[simp] theorem readLength_mem (n : Len) (key : Option Key) (size : Nat) (s : State) : (readLength n key size s).mem = s.mem := rfl
@[simp] theorem readLength_host (n : Len) (key : Option Key) (size : Nat) (s : State) : (readLength n key size s).host = s.host := rfl
@[simp] theorem readLength_draws (n : Len) (key : Option Key) (size : Nat) (s : State) : (readLength n key size s).draws = s.draws := rfl
@[simp] theorem readLength_steps (n : Len) (key : Option Key) (size : Nat) (s : State) : (readLength n key size s).steps = s.steps := rfl
@[simp] theorem readLength_turn (n : Len) (key : Option Key) (size : Nat) (s : State) : (readLength n key size s).turn = s.turn := rfl

/-! ### readerLost -/

@[simp] theorem readerLost_cfg (s : State) : (readerLost s).cfg = s.cfg := rfl
@[simp] theorem readerLost_firstFragment (s : State) : (readerLost s).firstFragment = s.firstFragment := rfl
@[simp] theorem readerLost_maskKey (s : State) : (readerLost s).maskKey = s.maskKey := rfl
@[simp] theorem readerLost_maskKeyValid (s : State) : (readerLost s).maskKeyValid = s.maskKeyValid := rfl
@[simp] theorem readerLost_fifo (s : State) : (readerLost s).fifo = s.fifo := rfl
@[simp] theorem readerLost_drainNext (s : State) : (readerLost s).drainNext = s.drainNext := rfl
@[simp] theorem readerLost_drainBusy (s : State) : (readerLost s).drainBusy = s.drainBusy := rfl
@[simp] theorem readerLost_port (s : State) : (readerLost s).port = s.port := rfl
@[simp] theorem readerLost_responses (s : State) : (readerLost s).responses = s.responses := rfl
@[simp] theorem readerLost_completions (s : State) : (readerLost s).completions = s.completions := rfl
@[simp] theorem readerLost_errorEvents (s : State) : (readerLost s).errorEvents = s.errorEvents := rfl
@[simp] theorem readerLost_writes (s : State) : (readerLost s).writes = s.writes := rfl
@[simp] theorem readerLost_answers (s : State) : (readerLost s).answers = s.answers := rfl
@[simp] theorem readerLost_mem (s : State) : (readerLost s).mem = s.mem := rfl
@[simp] theorem readerLost_host (s : State) : (readerLost s).host = s.host := rfl
@[simp] theorem readerLost_reader (s : State) : (readerLost s).reader = { s.reader with phase := .lost } := rfl
@[simp] theorem readerLost_draws (s : State) : (readerLost s).draws = s.draws := rfl
@[simp] theorem readerLost_steps (s : State) : (readerLost s).steps = s.steps := rfl
@[simp] theorem readerLost_turn (s : State) : (readerLost s).turn = s.turn := rfl

/-! ### nextTurn -/

@[simp] theorem nextTurn_cfg (s : State) : (nextTurn s).cfg = s.cfg := rfl
@[simp] theorem nextTurn_firstFragment (s : State) : (nextTurn s).firstFragment = s.firstFragment := rfl
@[simp] theorem nextTurn_maskKey (s : State) : (nextTurn s).maskKey = s.maskKey := rfl
@[simp] theorem nextTurn_maskKeyValid (s : State) : (nextTurn s).maskKeyValid = s.maskKeyValid := rfl
@[simp] theorem nextTurn_fifo (s : State) : (nextTurn s).fifo = s.fifo := rfl
@[simp] theorem nextTurn_drainNext (s : State) : (nextTurn s).drainNext = s.drainNext := rfl
@[simp] theorem nextTurn_drainBusy (s : State) : (nextTurn s).drainBusy = s.drainBusy := rfl
@[simp] theorem nextTurn_port (s : State) : (nextTurn s).port = s.port := rfl
@[simp] theorem nextTurn_responses (s : State) : (nextTurn s).responses = s.responses := rfl
@[simp] theorem nextTurn_completions (s : State) : (nextTurn s).completions = s.completions := rfl
@[simp] theorem nextTurn_errorEvents (s : State) : (nextTurn s).errorEvents = s.errorEvents := rfl
@[simp] theorem nextTurn_writes (s : State) : (nextTurn s).writes = s.writes := rfl
@[simp] theorem nextTurn_answers (s : State) : (nextTurn s).answers = s.answers := rfl
@[simp] theorem nextTurn_mem (s : State) : (nextTurn s).mem = s.mem := rfl
@[simp] theorem nextTurn_host (s : State) : (nextTurn s).host = s.host := rfl
@[simp] theorem nextTurn_reader (s : State) : (nextTurn s).reader = s.reader := rfl
@[simp] theorem nextTurn_draws (s : State) : (nextTurn s).draws = s.draws := rfl
@[simp] theorem nextTurn_steps (s : State) : (nextTurn s).steps = s.steps + 1 := rfl
@[simp] theorem nextTurn_turn (s : State) : (nextTurn s).turn = Config.schedule s.steps := rfl

/-! ### report -/

@[simp] theorem report_cfg (st : Status) (cb : Bool) (s : State) : (report st cb s).cfg = s.cfg := by
  cases cb <;> rfl
@[simp] theorem report_firstFragment (st : Status) (cb : Bool) (s : State) : (report st cb s).firstFragment = s.firstFragment := by
  cases cb <;> rfl
@[simp] theorem report_maskKey (st : Status) (cb : Bool) (s : State) : (report st cb s).maskKey = s.maskKey := by
  cases cb <;> rfl
@[simp] theorem report_maskKeyValid (st : Status) (cb : Bool) (s : State) : (report st cb s).maskKeyValid = s.maskKeyValid := by
  cases cb <;> rfl
@[simp] theorem report_fifo (st : Status) (cb : Bool) (s : State) : (report st cb s).fifo = s.fifo := by
  cases cb <;> rfl
@[simp] theorem report_drainNext (st : Status) (cb : Bool) (s : State) : (report st cb s).drainNext = s.drainNext := by
  cases cb <;> rfl
@[simp] theorem report_drainBusy (st : Status) (cb : Bool) (s : State) : (report st cb s).drainBusy = s.drainBusy := by
  cases cb <;> rfl
@[simp] theorem report_port (st : Status) (cb : Bool) (s : State) : (report st cb s).port = s.port := by
  cases cb <;> rfl
@[simp] theorem report_responses (st : Status) (cb : Bool) (s : State) : (report st cb s).responses = s.responses := by
  cases cb <;> rfl
@[simp] theorem report_writes (st : Status) (cb : Bool) (s : State) : (report st cb s).writes = s.writes := by
  cases cb <;> rfl
@[simp] theorem report_answers (st : Status) (cb : Bool) (s : State) : (report st cb s).answers = s.answers := by
  cases cb <;> rfl
@[simp] theorem report_mem (st : Status) (cb : Bool) (s : State) : (report st cb s).mem = s.mem := by
  cases cb <;> rfl
@[simp] theorem report_host (st : Status) (cb : Bool) (s : State) : (report st cb s).host = s.host := by
  cases cb <;> rfl
@[simp] theorem report_reader (st : Status) (cb : Bool) (s : State) : (report st cb s).reader = s.reader := by
  cases cb <;> rfl
@[simp] theorem report_draws (st : Status) (cb : Bool) (s : State) : (report st cb s).draws = s.draws := by
  cases cb <;> rfl
@[simp] theorem report_steps (st : Status) (cb : Bool) (s : State) : (report st cb s).steps = s.steps := by
  cases cb <;> rfl
@[simp] theorem report_turn (st : Status) (cb : Bool) (s : State) : (report st cb s).turn = s.turn := by
  cases cb <;> rfl

/-! ### noteKey -/

@[simp] theorem noteKey_cfg (draw : Key) (s : State) : (noteKey draw s).cfg = s.cfg := by
  unfold noteKey; split <;> [rfl; (split <;> rfl)]
@[simp] theorem noteKey_firstFragment (draw : Key) (s : State) : (noteKey draw s).firstFragment = s.firstFragment := by
  unfold noteKey; split <;> [rfl; (split <;> rfl)]
@[simp] theorem noteKey_fifo (draw : Key) (s : State) : (noteKey draw s).fifo = s.fifo := by
  unfold noteKey; split <;> [rfl; (split <;> rfl)]
@[simp] theorem noteKey_drainNext (draw : Key) (s : State) : (noteKey draw s).drainNext = s.drainNext := by
  unfold noteKey; split <;> [rfl; (split <;> rfl)]
@[simp] theorem noteKey_drainBusy (draw : Key) (s : State) : (noteKey draw s).drainBusy = s.drainBusy := by
  unfold noteKey; split <;> [rfl; (split <;> rfl)]
@[simp] theorem noteKey_port (draw : Key) (s : State) : (noteKey draw s).port = s.port := by
  unfold noteKey; split <;> [rfl; (split <;> rfl)]
@[simp] theorem noteKey_responses (draw : Key) (s : State) : (noteKey draw s).responses = s.responses := by
  unfold noteKey; split <;> [rfl; (split <;> rfl)]
@[simp] theorem noteKey_completions (draw : Key) (s : State) : (noteKey draw s).completions = s.completions := by
  unfold noteKey; split <;> [rfl; (split <;> rfl)]
@[simp] theorem noteKey_errorEvents (draw : Key) (s : State) : (noteKey draw s).errorEvents = s.errorEvents := by
  unfold noteKey; split <;> [rfl; (split <;> rfl)]
@[simp] theorem noteKey_writes (draw : Key) (s : State) : (noteKey draw s).writes = s.writes := by
  unfold noteKey; split <;> [rfl; (split <;> rfl)]
@[simp] theorem noteKey_answers (draw : Key) (s : State) : (noteKey draw s).answers = s.answers := by
  unfold noteKey; split <;> [rfl; (split <;> rfl)]
@[simp] theorem noteKey_mem (draw : Key) (s : State) : (noteKey draw s).mem = s.mem := by
  unfold noteKey; split <;> [rfl; (split <;> rfl)]
@[simp] theorem noteKey_host (draw : Key) (s : State) : (noteKey draw s).host = s.host := by
  unfold noteKey; split <;> [rfl; (split <;> rfl)]
@[simp] theorem noteKey_reader (draw : Key) (s : State) : (noteKey draw s).reader = s.reader := by
  unfold noteKey; split <;> [rfl; (split <;> rfl)]
@[simp] theorem noteKey_steps (draw : Key) (s : State) : (noteKey draw s).steps = s.steps := by
  unfold noteKey; split <;> [rfl; (split <;> rfl)]
@[simp] theorem noteKey_turn (draw : Key) (s : State) : (noteKey draw s).turn = s.turn := by
  unfold noteKey; split <;> [rfl; (split <;> rfl)]

/-! ### readPayload -/

@[simp] theorem readPayload_cfg (s : State) : (readPayload s).cfg = s.cfg := by
  unfold readPayload; split <;> rfl
@[simp] theorem readPayload_firstFragment (s : State) : (readPayload s).firstFragment = s.firstFragment := by
  unfold readPayload; split <;> rfl
@[simp] theorem readPayload_maskKey (s : State) : (readPayload s).maskKey = s.maskKey := by
  unfold readPayload; split <;> rfl
@[simp] theorem readPayload_maskKeyValid (s : State) : (readPayload s).maskKeyValid = s.maskKeyValid := by
  unfold readPayload; split <;> rfl
@[simp] theorem readPayload_fifo (s : State) : (readPayload s).fifo = s.fifo := by
  unfold readPayload; split <;> rfl
@[simp] theorem readPayload_drainNext (s : State) : (readPayload s).drainNext = s.drainNext := by
  unfold readPayload; split <;> rfl
@[simp] theorem readPayload_drainBusy (s : State) : (readPayload s).drainBusy = s.drainBusy := by
  unfold readPayload; split <;> rfl
@[simp] theorem readPayload_port (s : State) : (readPayload s).port = s.port := by
  unfold readPayload; split <;> rfl
@[simp] theorem readPayload_responses (s : State) : (readPayload s).responses = s.responses := by
  unfold readPayload; split <;> rfl
@[simp] theorem readPayload_completions (s : State) : (readPayload s).completions = s.completions := by
  unfold readPayload; split <;> rfl
@[simp] theorem readPayload_errorEvents (s : State) : (readPayload s).errorEvents = s.errorEvents := by
  unfold readPayload; split <;> rfl
@[simp] theorem readPayload_writes (s : State) : (readPayload s).writes = s.writes := by
  unfold readPayload; split <;> rfl
@[simp] theorem readPayload_answers (s : State) : (readPayload s).answers = s.answers := by
  unfold readPayload; split <;> rfl
@[simp] theorem readPayload_mem (s : State) : (readPayload s).mem = s.mem := by
  unfold readPayload; split <;> rfl
@[simp] theorem readPayload_host (s : State) : (readPayload s).host = s.host := by
  unfold readPayload; split <;> rfl
@[simp] theorem readPayload_draws (s : State) : (readPayload s).draws = s.draws := by
  unfold readPayload; split <;> rfl
@[simp] theorem readPayload_steps (s : State) : (readPayload s).steps = s.steps := by
  unfold readPayload; split <;> rfl
@[simp] theorem readPayload_turn (s : State) : (readPayload s).turn = s.turn := by
  unfold readPayload; split <;> rfl

end Sys2Proof.Machine
end

