-- ==== Sys2Proof/Laws/Ops.lean ====
section
/-!
SUPPORT. What each shared operation can do, said once: frame-and-send and the job it queues, acceptance, the mask-key
source, DRAIN's steps and HOST's.
-/

namespace Sys2Proof.Machine

/-! ### The non-empty case of frame-and-send: what it leaves alone -/

@[simp] theorem sendFrame_cfg (opcode : BitVec 4) (p : List Byte) (wb : Option Nat) (ro fin rsv1 : Bool) (key : Option Key)
    (cb : Bool) (src : Range) (s : State) :
    (sendFrame opcode p wb ro fin rsv1 key cb src s).cfg = s.cfg := by
  unfold sendFrame; dsimp only; split <;> rfl

@[simp] theorem sendFrame_firstFragment (opcode : BitVec 4) (p : List Byte) (wb : Option Nat) (ro fin rsv1 : Bool) (key : Option Key)
    (cb : Bool) (src : Range) (s : State) :
    (sendFrame opcode p wb ro fin rsv1 key cb src s).firstFragment = s.firstFragment := by
  unfold sendFrame; dsimp only; split <;> rfl

@[simp] theorem sendFrame_maskKey (opcode : BitVec 4) (p : List Byte) (wb : Option Nat) (ro fin rsv1 : Bool) (key : Option Key)
    (cb : Bool) (src : Range) (s : State) :
    (sendFrame opcode p wb ro fin rsv1 key cb src s).maskKey = s.maskKey := by
  unfold sendFrame; dsimp only; split <;> rfl

@[simp] theorem sendFrame_maskKeyValid (opcode : BitVec 4) (p : List Byte) (wb : Option Nat) (ro fin rsv1 : Bool) (key : Option Key)
    (cb : Bool) (src : Range) (s : State) :
    (sendFrame opcode p wb ro fin rsv1 key cb src s).maskKeyValid = s.maskKeyValid := by
  unfold sendFrame; dsimp only; split <;> rfl

@[simp] theorem sendFrame_drainNext (opcode : BitVec 4) (p : List Byte) (wb : Option Nat) (ro fin rsv1 : Bool) (key : Option Key)
    (cb : Bool) (src : Range) (s : State) :
    (sendFrame opcode p wb ro fin rsv1 key cb src s).drainNext = s.drainNext := by
  unfold sendFrame; dsimp only; split <;> rfl

@[simp] theorem sendFrame_drainBusy (opcode : BitVec 4) (p : List Byte) (wb : Option Nat) (ro fin rsv1 : Bool) (key : Option Key)
    (cb : Bool) (src : Range) (s : State) :
    (sendFrame opcode p wb ro fin rsv1 key cb src s).drainBusy = s.drainBusy := by
  unfold sendFrame; dsimp only; split <;> rfl

@[simp] theorem sendFrame_port (opcode : BitVec 4) (p : List Byte) (wb : Option Nat) (ro fin rsv1 : Bool) (key : Option Key)
    (cb : Bool) (src : Range) (s : State) :
    (sendFrame opcode p wb ro fin rsv1 key cb src s).port = s.port := by
  unfold sendFrame; dsimp only; split <;> rfl

@[simp] theorem sendFrame_responses (opcode : BitVec 4) (p : List Byte) (wb : Option Nat) (ro fin rsv1 : Bool) (key : Option Key)
    (cb : Bool) (src : Range) (s : State) :
    (sendFrame opcode p wb ro fin rsv1 key cb src s).responses = s.responses := by
  unfold sendFrame; dsimp only; split <;> rfl

@[simp] theorem sendFrame_completions (opcode : BitVec 4) (p : List Byte) (wb : Option Nat) (ro fin rsv1 : Bool) (key : Option Key)
    (cb : Bool) (src : Range) (s : State) :
    (sendFrame opcode p wb ro fin rsv1 key cb src s).completions = s.completions := by
  unfold sendFrame; dsimp only; split <;> rfl

@[simp] theorem sendFrame_errorEvents (opcode : BitVec 4) (p : List Byte) (wb : Option Nat) (ro fin rsv1 : Bool) (key : Option Key)
    (cb : Bool) (src : Range) (s : State) :
    (sendFrame opcode p wb ro fin rsv1 key cb src s).errorEvents = s.errorEvents := by
  unfold sendFrame; dsimp only; split <;> rfl

@[simp] theorem sendFrame_writes (opcode : BitVec 4) (p : List Byte) (wb : Option Nat) (ro fin rsv1 : Bool) (key : Option Key)
    (cb : Bool) (src : Range) (s : State) :
    (sendFrame opcode p wb ro fin rsv1 key cb src s).writes = s.writes := by
  unfold sendFrame; dsimp only; split <;> rfl

@[simp] theorem sendFrame_answers (opcode : BitVec 4) (p : List Byte) (wb : Option Nat) (ro fin rsv1 : Bool) (key : Option Key)
    (cb : Bool) (src : Range) (s : State) :
    (sendFrame opcode p wb ro fin rsv1 key cb src s).answers = s.answers := by
  unfold sendFrame; dsimp only; split <;> rfl

@[simp] theorem sendFrame_host (opcode : BitVec 4) (p : List Byte) (wb : Option Nat) (ro fin rsv1 : Bool) (key : Option Key)
    (cb : Bool) (src : Range) (s : State) :
    (sendFrame opcode p wb ro fin rsv1 key cb src s).host = s.host := by
  unfold sendFrame; dsimp only; split <;> rfl

@[simp] theorem sendFrame_reader (opcode : BitVec 4) (p : List Byte) (wb : Option Nat) (ro fin rsv1 : Bool) (key : Option Key)
    (cb : Bool) (src : Range) (s : State) :
    (sendFrame opcode p wb ro fin rsv1 key cb src s).reader = s.reader := by
  unfold sendFrame; dsimp only; split <;> rfl

@[simp] theorem sendFrame_draws (opcode : BitVec 4) (p : List Byte) (wb : Option Nat) (ro fin rsv1 : Bool) (key : Option Key)
    (cb : Bool) (src : Range) (s : State) :
    (sendFrame opcode p wb ro fin rsv1 key cb src s).draws = s.draws := by
  unfold sendFrame; dsimp only; split <;> rfl

@[simp] theorem sendFrame_steps (opcode : BitVec 4) (p : List Byte) (wb : Option Nat) (ro fin rsv1 : Bool) (key : Option Key)
    (cb : Bool) (src : Range) (s : State) :
    (sendFrame opcode p wb ro fin rsv1 key cb src s).steps = s.steps := by
  unfold sendFrame; dsimp only; split <;> rfl

@[simp] theorem sendFrame_turn (opcode : BitVec 4) (p : List Byte) (wb : Option Nat) (ro fin rsv1 : Bool) (key : Option Key)
    (cb : Bool) (src : Range) (s : State) :
    (sendFrame opcode p wb ro fin rsv1 key cb src s).turn = s.turn := by
  unfold sendFrame; dsimp only; split <;> rfl

/-! ### Frame-and-send: what it leaves alone -/

@[simp] theorem frameAndSend_cfg (draw : Key) (opcode : BitVec 4) (p : List Byte) (wb : Option Nat)
    (ro fin rsv1 masked cb : Bool) (src : Range) (s : State) :
    (frameAndSend draw opcode p wb ro fin rsv1 masked cb src s).cfg = s.cfg := by
  unfold frameAndSend; split <;> [rfl; (split <;> simp)]

@[simp] theorem frameAndSend_firstFragment (draw : Key) (opcode : BitVec 4) (p : List Byte) (wb : Option Nat)
    (ro fin rsv1 masked cb : Bool) (src : Range) (s : State) :
    (frameAndSend draw opcode p wb ro fin rsv1 masked cb src s).firstFragment = s.firstFragment := by
  unfold frameAndSend; split <;> [rfl; (split <;> simp)]

@[simp] theorem frameAndSend_drainNext (draw : Key) (opcode : BitVec 4) (p : List Byte) (wb : Option Nat)
    (ro fin rsv1 masked cb : Bool) (src : Range) (s : State) :
    (frameAndSend draw opcode p wb ro fin rsv1 masked cb src s).drainNext = s.drainNext := by
  unfold frameAndSend; split <;> [rfl; (split <;> simp)]

@[simp] theorem frameAndSend_drainBusy (draw : Key) (opcode : BitVec 4) (p : List Byte) (wb : Option Nat)
    (ro fin rsv1 masked cb : Bool) (src : Range) (s : State) :
    (frameAndSend draw opcode p wb ro fin rsv1 masked cb src s).drainBusy = s.drainBusy := by
  unfold frameAndSend; split <;> [rfl; (split <;> simp)]

@[simp] theorem frameAndSend_port (draw : Key) (opcode : BitVec 4) (p : List Byte) (wb : Option Nat)
    (ro fin rsv1 masked cb : Bool) (src : Range) (s : State) :
    (frameAndSend draw opcode p wb ro fin rsv1 masked cb src s).port = s.port := by
  unfold frameAndSend; split <;> [rfl; (split <;> simp)]

@[simp] theorem frameAndSend_responses (draw : Key) (opcode : BitVec 4) (p : List Byte) (wb : Option Nat)
    (ro fin rsv1 masked cb : Bool) (src : Range) (s : State) :
    (frameAndSend draw opcode p wb ro fin rsv1 masked cb src s).responses = s.responses := by
  unfold frameAndSend; split <;> [rfl; (split <;> simp)]

@[simp] theorem frameAndSend_completions (draw : Key) (opcode : BitVec 4) (p : List Byte) (wb : Option Nat)
    (ro fin rsv1 masked cb : Bool) (src : Range) (s : State) :
    (frameAndSend draw opcode p wb ro fin rsv1 masked cb src s).completions = s.completions := by
  unfold frameAndSend; split <;> [rfl; (split <;> simp)]

@[simp] theorem frameAndSend_errorEvents (draw : Key) (opcode : BitVec 4) (p : List Byte) (wb : Option Nat)
    (ro fin rsv1 masked cb : Bool) (src : Range) (s : State) :
    (frameAndSend draw opcode p wb ro fin rsv1 masked cb src s).errorEvents = s.errorEvents := by
  unfold frameAndSend; split <;> [rfl; (split <;> simp)]

@[simp] theorem frameAndSend_writes (draw : Key) (opcode : BitVec 4) (p : List Byte) (wb : Option Nat)
    (ro fin rsv1 masked cb : Bool) (src : Range) (s : State) :
    (frameAndSend draw opcode p wb ro fin rsv1 masked cb src s).writes = s.writes := by
  unfold frameAndSend; split <;> [rfl; (split <;> simp)]

@[simp] theorem frameAndSend_answers (draw : Key) (opcode : BitVec 4) (p : List Byte) (wb : Option Nat)
    (ro fin rsv1 masked cb : Bool) (src : Range) (s : State) :
    (frameAndSend draw opcode p wb ro fin rsv1 masked cb src s).answers = s.answers := by
  unfold frameAndSend; split <;> [rfl; (split <;> simp)]

@[simp] theorem frameAndSend_host (draw : Key) (opcode : BitVec 4) (p : List Byte) (wb : Option Nat)
    (ro fin rsv1 masked cb : Bool) (src : Range) (s : State) :
    (frameAndSend draw opcode p wb ro fin rsv1 masked cb src s).host = s.host := by
  unfold frameAndSend; split <;> [rfl; (split <;> simp)]

@[simp] theorem frameAndSend_reader (draw : Key) (opcode : BitVec 4) (p : List Byte) (wb : Option Nat)
    (ro fin rsv1 masked cb : Bool) (src : Range) (s : State) :
    (frameAndSend draw opcode p wb ro fin rsv1 masked cb src s).reader = s.reader := by
  unfold frameAndSend; split <;> [rfl; (split <;> simp)]

@[simp] theorem frameAndSend_steps (draw : Key) (opcode : BitVec 4) (p : List Byte) (wb : Option Nat)
    (ro fin rsv1 masked cb : Bool) (src : Range) (s : State) :
    (frameAndSend draw opcode p wb ro fin rsv1 masked cb src s).steps = s.steps := by
  unfold frameAndSend; split <;> [rfl; (split <;> simp)]

@[simp] theorem frameAndSend_turn (draw : Key) (opcode : BitVec 4) (p : List Byte) (wb : Option Nat)
    (ro fin rsv1 masked cb : Bool) (src : Range) (s : State) :
    (frameAndSend draw opcode p wb ro fin rsv1 masked cb src s).turn = s.turn := by
  unfold frameAndSend; split <;> [rfl; (split <;> simp)]

@[simp] theorem drainIssue_cfg (s : State) : (drainIssue s).cfg = s.cfg := by
  unfold drainIssue; split <;> [rfl; (split <;> [rfl; (split <;> rfl)])]

@[simp] theorem drainIssue_firstFragment (s : State) : (drainIssue s).firstFragment = s.firstFragment := by
  unfold drainIssue; split <;> [rfl; (split <;> [rfl; (split <;> rfl)])]

@[simp] theorem drainIssue_maskKey (s : State) : (drainIssue s).maskKey = s.maskKey := by
  unfold drainIssue; split <;> [rfl; (split <;> [rfl; (split <;> rfl)])]

@[simp] theorem drainIssue_maskKeyValid (s : State) : (drainIssue s).maskKeyValid = s.maskKeyValid := by
  unfold drainIssue; split <;> [rfl; (split <;> [rfl; (split <;> rfl)])]

@[simp] theorem drainIssue_fifo (s : State) : (drainIssue s).fifo = s.fifo := by
  unfold drainIssue; split <;> [rfl; (split <;> [rfl; (split <;> rfl)])]

@[simp] theorem drainIssue_drainNext (s : State) : (drainIssue s).drainNext = s.drainNext := by
  unfold drainIssue; split <;> [rfl; (split <;> [rfl; (split <;> rfl)])]

@[simp] theorem drainIssue_port (s : State) : (drainIssue s).port = s.port := by
  unfold drainIssue; split <;> [rfl; (split <;> [rfl; (split <;> rfl)])]

@[simp] theorem drainIssue_responses (s : State) : (drainIssue s).responses = s.responses := by
  unfold drainIssue; split <;> [rfl; (split <;> [rfl; (split <;> rfl)])]

@[simp] theorem drainIssue_completions (s : State) : (drainIssue s).completions = s.completions := by
  unfold drainIssue; split <;> [rfl; (split <;> [rfl; (split <;> rfl)])]

@[simp] theorem drainIssue_errorEvents (s : State) : (drainIssue s).errorEvents = s.errorEvents := by
  unfold drainIssue; split <;> [rfl; (split <;> [rfl; (split <;> rfl)])]

@[simp] theorem drainIssue_answers (s : State) : (drainIssue s).answers = s.answers := by
  unfold drainIssue; split <;> [rfl; (split <;> [rfl; (split <;> rfl)])]

@[simp] theorem drainIssue_mem (s : State) : (drainIssue s).mem = s.mem := by
  unfold drainIssue; split <;> [rfl; (split <;> [rfl; (split <;> rfl)])]

@[simp] theorem drainIssue_host (s : State) : (drainIssue s).host = s.host := by
  unfold drainIssue; split <;> [rfl; (split <;> [rfl; (split <;> rfl)])]

@[simp] theorem drainIssue_reader (s : State) : (drainIssue s).reader = s.reader := by
  unfold drainIssue; split <;> [rfl; (split <;> [rfl; (split <;> rfl)])]

@[simp] theorem drainIssue_draws (s : State) : (drainIssue s).draws = s.draws := by
  unfold drainIssue; split <;> [rfl; (split <;> [rfl; (split <;> rfl)])]

@[simp] theorem drainIssue_steps (s : State) : (drainIssue s).steps = s.steps := by
  unfold drainIssue; split <;> [rfl; (split <;> [rfl; (split <;> rfl)])]

@[simp] theorem drainIssue_turn (s : State) : (drainIssue s).turn = s.turn := by
  unfold drainIssue; split <;> [rfl; (split <;> [rfl; (split <;> rfl)])]

@[simp] theorem drainAnswer_cfg (a : Answer) (s : State) : (drainAnswer a s).cfg = s.cfg := by
  unfold drainAnswer
  split
  · rfl
  · split
    · rfl
    · cases a <;> dsimp only <;> (repeat' split) <;> simp

@[simp] theorem drainAnswer_firstFragment (a : Answer) (s : State) : (drainAnswer a s).firstFragment = s.firstFragment := by
  unfold drainAnswer
  split
  · rfl
  · split
    · rfl
    · cases a <;> dsimp only <;> (repeat' split) <;> simp

@[simp] theorem drainAnswer_maskKey (a : Answer) (s : State) : (drainAnswer a s).maskKey = s.maskKey := by
  unfold drainAnswer
  split
  · rfl
  · split
    · rfl
    · cases a <;> dsimp only <;> (repeat' split) <;> simp

@[simp] theorem drainAnswer_maskKeyValid (a : Answer) (s : State) : (drainAnswer a s).maskKeyValid = s.maskKeyValid := by
  unfold drainAnswer
  split
  · rfl
  · split
    · rfl
    · cases a <;> dsimp only <;> (repeat' split) <;> simp

@[simp] theorem drainAnswer_port (a : Answer) (s : State) : (drainAnswer a s).port = s.port := by
  unfold drainAnswer
  split
  · rfl
  · split
    · rfl
    · cases a <;> dsimp only <;> (repeat' split) <;> simp

@[simp] theorem drainAnswer_responses (a : Answer) (s : State) : (drainAnswer a s).responses = s.responses := by
  unfold drainAnswer
  split
  · rfl
  · split
    · rfl
    · cases a <;> dsimp only <;> (repeat' split) <;> simp

@[simp] theorem drainAnswer_writes (a : Answer) (s : State) : (drainAnswer a s).writes = s.writes := by
  unfold drainAnswer
  split
  · rfl
  · split
    · rfl
    · cases a <;> dsimp only <;> (repeat' split) <;> simp

@[simp] theorem drainAnswer_mem (a : Answer) (s : State) : (drainAnswer a s).mem = s.mem := by
  unfold drainAnswer
  split
  · rfl
  · split
    · rfl
    · cases a <;> dsimp only <;> (repeat' split) <;> simp

@[simp] theorem drainAnswer_host (a : Answer) (s : State) : (drainAnswer a s).host = s.host := by
  unfold drainAnswer
  split
  · rfl
  · split
    · rfl
    · cases a <;> dsimp only <;> (repeat' split) <;> simp

@[simp] theorem drainAnswer_draws (a : Answer) (s : State) : (drainAnswer a s).draws = s.draws := by
  unfold drainAnswer
  split
  · rfl
  · split
    · rfl
    · cases a <;> dsimp only <;> (repeat' split) <;> simp

@[simp] theorem drainAnswer_steps (a : Answer) (s : State) : (drainAnswer a s).steps = s.steps := by
  unfold drainAnswer
  split
  · rfl
  · split
    · rfl
    · cases a <;> dsimp only <;> (repeat' split) <;> simp

@[simp] theorem drainAnswer_turn (a : Answer) (s : State) : (drainAnswer a s).turn = s.turn := by
  unfold drainAnswer
  split
  · rfl
  · split
    · rfl
    · cases a <;> dsimp only <;> (repeat' split) <;> simp

/-! ### Mask key (R71) -/

theorem noteKey_perFrame {draw : Key} {s : State} (h : s.cfg.maskKeyPolicy = .perFrame) :
    noteKey draw s = { s with draws := s.draws + 1 } := by
  simp only [noteKey, h]

theorem noteKey_cached {draw : Key} {s : State} (h : s.cfg.maskKeyPolicy = .cached) (hv : s.maskKeyValid = true) :
    noteKey draw s = s := by
  simp only [noteKey, h, hv, if_true]

theorem noteKey_first {draw : Key} {s : State} (h : s.cfg.maskKeyPolicy = .cached) (hv : s.maskKeyValid = false) :
    noteKey draw s = { s with maskKey := draw, maskKeyValid := true, draws := s.draws + 1 } := by
  simp [noteKey, h, hv]

/-- A cached key stays, under either policy. -/
theorem noteKey_keeps {draw : Key} {s : State} (hv : s.maskKeyValid = true) :
    (noteKey draw s).maskKeyValid = true ∧ (noteKey draw s).maskKey = s.maskKey := by
  cases h : s.cfg.maskKeyPolicy with
  | perFrame => rw [noteKey_perFrame h]; exact ⟨hv, rfl⟩
  | cached => rw [noteKey_cached h hv]; exact ⟨hv, rfl⟩

/-! ### Frame-and-send (R87) -/

/-- The key of a frame: none, four zero bytes for an empty frame (R78), or what `MaskKey()` returns (R85). -/
def sentKey (draw : Key) (masked : Bool) (p : List Byte) (s : State) : Option Key :=
  if masked then (if p = [] then some 0#32 else some (frameKey draw s)) else none

/-- The frame that frame-and-send makes of its operands. -/
def sentFrame (draw : Key) (opcode : BitVec 4) (p : List Byte) (fin rsv1 masked : Bool) (s : State) : Frame :=
  ⟨fin, rsv1 && !p.isEmpty, opcode, sentKey draw masked p s, p⟩

/-- The writes of the job that frame-and-send queues (R78, R82 to R84). -/
def sentWrites (draw : Key) (opcode : BitVec 4) (p : List Byte) (ro fin rsv1 masked : Bool) (s : State) : Writes :=
  let f := sentFrame draw opcode p fin rsv1 masked s
  if p = [] ∨ mergeDecision s.cfg.mergeThreshold p.length masked ro = true then .single (frameWire f)
  else .split (frameHeader f) (frameBody p f.key)

@[simp] theorem frameKey_firstFragment (draw : Key) (s : State) (b : Bool) :
    frameKey draw { s with firstFragment := b } = frameKey draw s := rfl

theorem sendFrame_fifo (opcode : BitVec 4) (p : List Byte) (wb : Option Nat) (ro fin rsv1 : Bool) (key : Option Key)
    (cb : Bool) (src : Range) (s : State) :
    (sendFrame opcode p wb ro fin rsv1 key cb src s).fifo = s.fifo ++
      [⟨frameWrites (mergeDecision s.cfg.mergeThreshold p.length key.isSome ro)
        (packHeader opcode fin rsv1 (BitVec.ofNat 64 p.length) key) (frameBody p key), cb, src⟩] := by
  unfold sendFrame; dsimp only; split <;> rfl

/-- Frame-and-send queues exactly one job, at the tail (R86): its writes, CB bit and source range. -/
theorem frameAndSend_fifo (draw : Key) (opcode : BitVec 4) (p : List Byte) (wb : Option Nat)
    (ro fin rsv1 masked cb : Bool) (src : Range) (s : State) :
    (frameAndSend draw opcode p wb ro fin rsv1 masked cb src s).fifo =
      s.fifo ++ [⟨sentWrites draw opcode p ro fin rsv1 masked s, cb, src⟩] := by
  unfold frameAndSend
  cases p with
  | nil =>
    cases masked <;> simp [enqueue, sentWrites, sentFrame, sentKey, frameWire, frameHeader, frameBody, fastHeader, mask, maskFrom]
  | cons b p =>
    have hk : ∀ d : Key, (noteKey d s).fifo = s.fifo := fun d => noteKey_fifo d s
    cases masked with
    | false =>
      simp only [Bool.false_eq_true, if_false, sendFrame_fifo, sentWrites, sentFrame, sentKey, frameWire, frameHeader,
        frameWrites, List.isEmpty_cons, Bool.not_false, Bool.and_true, Option.isSome_none, reduceCtorEq, false_or,
        List.length_cons, Nat.succ_ne_zero]
    | true =>
      simp only [if_true, sendFrame_fifo, sentWrites, sentFrame, sentKey, frameWire, frameHeader, noteKey_fifo,
        noteKey_cfg, frameWrites, List.isEmpty_cons, Bool.not_false, Bool.and_true, Option.isSome_some, reduceCtorEq,
        false_or, if_false, List.length_cons, Nat.add_eq_zero_iff, Nat.one_ne_zero, and_false]

theorem writeBytes_sentWrites (draw : Key) (opcode : BitVec 4) (p : List Byte) (ro fin rsv1 masked : Bool) (s : State) :
    writeBytes (sentWrites draw opcode p ro fin rsv1 masked s) =
      frameWire (sentFrame draw opcode p fin rsv1 masked s) := by
  unfold sentWrites
  dsimp only
  split <;> rfl

/-- The payload memory after frame-and-send: written on the split masked path with a buffer to write back to (R83), and
left alone on every other path. -/
theorem frameAndSend_mem (draw : Key) (opcode : BitVec 4) (p : List Byte) (wb : Option Nat)
    (ro fin rsv1 masked cb : Bool) (src : Range) (s : State) :
    (frameAndSend draw opcode p wb ro fin rsv1 masked cb src s).mem =
      if masked = true ∧ ro = false ∧ p ≠ [] ∧ s.cfg.mergeThreshold ≤ p.length then
        match wb with
        | none => s.mem
        | some a => memWrite s.mem a (mask p (frameKey draw s))
      else s.mem := by
  unfold frameAndSend
  cases p with
  | nil => simp [enqueue]
  | cons b p =>
    by_cases hlt : (b :: p).length < s.cfg.mergeThreshold
    · have hle : ¬ s.cfg.mergeThreshold ≤ (b :: p).length := by omega
      cases masked <;>
        simp only [hle, if_true, if_false, Bool.false_eq_true, and_false, sendFrame, mergeDecision, hlt, noteKey_cfg,
          decide_true, Bool.true_or, enqueue_mem, noteKey_mem]
    · have hle : s.cfg.mergeThreshold ≤ (b :: p).length := by omega
      cases masked <;> cases ro <;> cases wb <;>
        simp only [hle, hlt, if_true, if_false, Bool.false_eq_true, and_true, true_and, false_and, sendFrame,
          mergeDecision, frameBody, noteKey_cfg, decide_false, Option.isSome, Bool.or_self, Bool.and_true, Bool.and_false,
          Bool.or_true, Bool.and_self, enqueue_mem, noteKey_mem, ne_eq, reduceCtorEq, not_false_eq_true, Bool.true_eq_false]

/-- The key registers and the draws after frame-and-send: as `MaskKey()` leaves them for a non-empty masked frame
(R85), untouched for any other. -/
theorem frameAndSend_key (draw : Key) (opcode : BitVec 4) (p : List Byte) (wb : Option Nat)
    (ro fin rsv1 masked cb : Bool) (src : Range) (s : State) :
    let t := frameAndSend draw opcode p wb ro fin rsv1 masked cb src s
    let u := if masked = true ∧ p ≠ [] then noteKey draw s else s
    t.maskKey = u.maskKey ∧ t.maskKeyValid = u.maskKeyValid ∧ t.draws = u.draws := by
  unfold frameAndSend
  cases p with
  | nil => simp [enqueue]
  | cons b p => cases masked <;> simp

/-! ### Acceptance (R76) -/

theorem rangeAdmitted_iff (s : State) (len : Len) (buf : Nat) :
    rangeAdmitted s len buf = true ↔ (len = 0#64 ∨ buf + len.toNat ≤ 2 ^ s.cfg.addrW) := by
  simp [rangeAdmitted]

theorem acceptance_perform_iff (s : State) (len : Len) (buf : Nat) :
    acceptance len buf s = .perform ↔ canAccept s len buf := by
  unfold acceptance canAccept
  rw [← rangeAdmitted_iff]
  cases rangeAdmitted s len buf <;> cases fifoFull s <;> simp

theorem closeLenFits_iff (len : Len) : closeLenFits len = true ↔ len.toNat ≤ 2 ^ 64 - 3 :=
  decide_eq_true_iff

theorem closeAcceptance_perform_iff (s : State) (code : CloseCode) (len : Len) (buf : Nat) :
    closeAcceptance code len buf s = .perform ↔ canClose s code len buf := by
  unfold closeAcceptance canClose canAccept
  rw [← rangeAdmitted_iff, ← closeLenFits_iff]
  rcases code with _ | ⟨c, v⟩
  · cases closeLenFits len <;> cases rangeAdmitted s len buf <;> cases fifoFull s <;> simp
  · cases v <;> cases closeLenFits len <;> cases rangeAdmitted s len buf <;> cases fifoFull s <;> simp

/-- A SEND, PING or PONG is performed, or held, or stuck; never answered with an invalid code. -/
theorem acceptance_cases (s : State) (len : Len) (buf : Nat) :
    acceptance len buf s = .perform ∨ acceptance len buf s = .hold ∨ acceptance len buf s = .stuck := by
  unfold acceptance
  cases rangeAdmitted s len buf <;> cases fifoFull s <;> simp

/-- Everything an acceptance step can answer: nothing changed, the invalid code answered, or the command performed. -/
theorem accept_cases {v : Verdict} {s p t : State} (h : accept v s p = .next t) :
    ((v = .stuck ∨ v = .hold) ∧ t = s) ∨
    (v = .invalidCode ∧ t = respond .invalidCloseCode (takeCommand s)) ∨
    (v = .perform ∧ t = respond .ok (takeCommand p)) := by
  cases v <;> simp only [accept, Host.Outcome.next.injEq] at h <;> simp [h]

/-- A SEND, PING or PONG changes nothing or is performed. -/
theorem accept_acceptance_cases {len : Len} {buf : Nat} {s p t : State}
    (h : accept (acceptance len buf s) s p = .next t) :
    t = s ∨ (canAccept s len buf ∧ t = respond .ok (takeCommand p)) := by
  rcases accept_cases h with ⟨-, rfl⟩ | ⟨hv, -⟩ | ⟨hv, rfl⟩
  · exact .inl rfl
  · rcases acceptance_cases s len buf with h | h | h <;> simp [h] at hv
  · exact .inr ⟨(acceptance_perform_iff s len buf).mp hv, rfl⟩

/-- A CLOSE changes nothing, or is answered `INVALID_CLOSE_CODE`, or is performed. -/
theorem accept_closeAcceptance_cases {code : CloseCode} {len : Len} {buf : Nat} {s p t : State}
    (h : accept (closeAcceptance code len buf s) s p = .next t) :
    t = s ∨ t = respond .invalidCloseCode (takeCommand s) ∨
      (canClose s code len buf ∧ t = respond .ok (takeCommand p)) := by
  rcases accept_cases h with ⟨-, rfl⟩ | ⟨-, rfl⟩ | ⟨hv, rfl⟩
  · exact .inl rfl
  · exact .inr (.inl rfl)
  · exact .inr (.inr ⟨(closeAcceptance_perform_iff s code len buf).mp hv, rfl⟩)

/-- A room in a bounded FIFO: fewer jobs than the depth once one is queued. -/
theorem depth_of_room {s : State} {m : Nat} (hm : s.cfg.fifoDepth = .bounded m) (hd : s.fifo.length ≤ m + 1)
    (hf : fifoFull s = false) : s.fifo.length < m + 1 := by
  unfold fifoFull at hf
  cases hq : s.fifo with
  | nil => simp
  | cons j js =>
    rw [hq] at hf hd
    simp only [hm, beq_eq_false_iff_ne] at hf
    simp only [List.length_cons] at hd ⊢
    omega

/-! ### DRAIN (R88, R89) -/

/-- Write `w` of a job, as an index into the list of its writes (R88). -/
theorem writeAt_eq (w : Writes) (i : Bool) : writeAt w i = (writeList w)[i.toNat]? := by
  cases w <;> cases i <;> rfl

theorem hasNextWrite_iff (w : Writes) (i : Bool) :
    hasNextWrite w i = true ↔ i.toNat + 1 < (writeList w).length := by
  cases w <;> cases i <;> simp [hasNextWrite, writeList]

/-- Everything DRAIN's issue step can do. -/
theorem drainIssue_cases (s : State) :
    drainIssue s = s ∨
    ∃ j js w, s.drainBusy = false ∧ s.fifo = j :: js ∧ writeAt j.writes s.drainNext = some w ∧
      drainIssue s = { s with writes := s.writes ++ [w], drainBusy := true } := by
  unfold drainIssue
  split
  · exact .inl rfl
  · next hb =>
    split
    · exact .inl rfl
    · next j js hq =>
      split
      · exact .inl rfl
      · next w hw => exact .inr ⟨j, js, w, by simpa using hb, hq, hw, rfl⟩

/-- Everything DRAIN's answer step can do to the block. -/
theorem drainAnswer_cases (a : Answer) (s : State) :
    drainAnswer a s = s ∨
    ∃ j js, s.drainBusy = true ∧ s.fifo = j :: js ∧
      (drainAnswer a s).drainBusy = false ∧ (drainAnswer a s).answers = s.answers ++ [a] ∧
      ((a = .ok ∧ hasNextWrite j.writes s.drainNext = true ∧ (drainAnswer a s).drainNext = true ∧
          (drainAnswer a s).fifo = s.fifo ∧ (drainAnswer a s).completions = s.completions ∧
          (drainAnswer a s).errorEvents = s.errorEvents) ∨
        (a = .ok ∧ hasNextWrite j.writes s.drainNext = false ∧ (drainAnswer a s).drainNext = false ∧
          (drainAnswer a s).fifo = js ∧
          (drainAnswer a s).completions = s.completions ++ (if j.cb then [.ok] else []) ∧
          (drainAnswer a s).errorEvents = s.errorEvents) ∨
        (a = .err ∧ (drainAnswer a s).drainNext = false ∧ (drainAnswer a s).fifo = js ∧
          (drainAnswer a s).completions = s.completions ++ (if j.cb then [.transportWriteFailure] else []) ∧
          (drainAnswer a s).errorEvents = s.errorEvents ++ (if j.cb then [] else [.transportWriteFailure]))) := by
  cases hb : s.drainBusy with
  | false => exact .inl (by simp [drainAnswer, hb])
  | true =>
    cases hq : s.fifo with
    | nil => exact .inl (by simp [drainAnswer, hb, hq])
    | cons j js =>
      refine .inr ⟨j, js, rfl, rfl, ?_⟩
      cases a with
      | err => cases hc : j.cb <;> simp [drainAnswer, hb, hq, hc, report, complete, errorEvent, popJob]
      | ok =>
        cases hn : hasNextWrite j.writes s.drainNext with
        | true => simp [drainAnswer, hb, hq, hn, deliver]
        | false => cases hc : j.cb <;> simp [drainAnswer, hb, hq, hn, hc, deliver, complete, popJob]

/-! ### HOST (R24, R31) -/

/-- Two ranges overlap exactly when they share an address. -/
theorem overlaps_iff (a b : Range) :
    overlaps a b = true ↔ ∃ x, a.base ≤ x ∧ x < a.base + a.size ∧ b.base ≤ x ∧ x < b.base + b.size := by
  simp only [overlaps, Bool.and_eq_true, decide_eq_true_eq, bne_iff_ne]
  constructor
  · intro h
    exact ⟨max a.base b.base, by omega, by omega, by omega, by omega⟩
  · rintro ⟨x, h⟩
    omega

/-- A range overlaps one in flight exactly when it has a byte that HOST must leave alone (R129). -/
theorem any_overlaps_inFlight_iff (s : State) (r : Range) :
    (inFlight s).any (overlaps r) = true ↔ ∃ x, r.base ≤ x ∧ x < r.base + r.size ∧ heldByte s x := by
  simp only [List.any_eq_true, overlaps_iff, inFlight, heldByte, List.mem_append, List.mem_map]
  constructor
  · rintro ⟨q, hq | ⟨j, hj, rfl⟩, x, h1, h2, h3, h4⟩
    · cases hp : s.port with
      | none => simp [hp] at hq
      | some c =>
        simp only [hp, List.mem_singleton] at hq
        subst hq
        exact ⟨x, h1, h2, .inl ⟨c, rfl, h3, h4⟩⟩
    · exact ⟨x, h1, h2, .inr ⟨j, hj, h3, h4⟩⟩
  · rintro ⟨x, h1, h2, ⟨c, hc, h3, h4⟩ | ⟨j, hj, h3, h4⟩⟩
    · exact ⟨sourceRange c.len c.buf, .inl (by simp [hc]), x, h1, h2, h3, h4⟩
    · exact ⟨j.src, .inr ⟨j, hj, rfl⟩, x, h1, h2, h3, h4⟩

/-- Everything HOST's step can answer with a next state: nothing changed, a command presented, or bytes stored inside
the memory. -/
theorem hostAct_cases {s t : State} (h : hostAct s = .next t) :
    t = s ∨
    (∃ c rest, s.host = .present c :: rest ∧ t = { s with port := some c, host := rest }) ∨
    (∃ a bs rest, s.host = .store a bs :: rest ∧ a + bs.length ≤ 2 ^ s.cfg.addrW ∧
      t = { s with mem := memWrite s.mem a bs, host := rest }) := by
  unfold hostAct at h
  split at h
  · exact .inl (by simpa using h.symm)
  · next c rest hh =>
    split at h
    · exact .inl (by simpa using h.symm)
    · exact .inr (.inl ⟨c, rest, hh, by simpa using h.symm⟩)
  · next a bs rest hh =>
    split at h
    · cases h
    · next ha =>
      split at h
      · cases h
      · exact .inr (.inr ⟨a, bs, rest, hh, by omega, by simpa using h.symm⟩)

end Sys2Proof.Machine
end

