-- ==== Sys2Proof/Laws/PerInstr.lean ====
section
/-!
SUPPORT. For every instruction: its encoding lies in its own row of spec/opcode_table.json.
-/

namespace Sys2Proof.Laws

/-- The word of an encoding that the opcode table numbers: CMD of a command, the first byte of a header form. -/
def tableWord (w : Words) : BitVec 32 :=
  match w with
  | .command c => c.cmd
  | .header0 b => b.setWidth 32
  | .header1 bs => (bs.headD 0#8).setWidth 32

/-- A word lies in a row: `word & mask = match`. -/
def inRow (rowMask rowMatch word : BitVec 32) : Prop :=
  word &&& rowMask = rowMatch

/-- A CODE in bits 31:16 meets no bit of the row's mask. -/
theorem code_outside_row (code : BitVec 16) : (code.setWidth 32 <<< 16) &&& 0x0000FC03#32 = 0#32 := by
  have low : ∀ i : Fin 32, 16 ≤ i.val → (0x0000FC03#32).getLsbD i.val = false := by decide
  refine BitVec.eq_of_getLsbD_eq fun i hi => ?_
  by_cases h : i < 16
  · simp [BitVec.getLsbD_and, h]
  · simp [BitVec.getLsbD_and, low ⟨i, hi⟩ (by simpa using h)]

end Sys2Proof.Laws

namespace Sys2Proof.Laws.EncodesToRow

/-- The encoding of an instruction matches its row of the opcode table, and no command sets a reserved bit. The mask of
LEN_L7 is 0; that its word is in no other row of format HDR1 is said beside it. -/
def Statement (i : Instr) : Prop :=
  match i with
  | .send .. => inRow 0x0000FC03#32 0x00000000#32 (tableWord (encode i))
  | .ping .. => inRow 0x0000FC03#32 0x00000001#32 (tableWord (encode i))
  | .pong .. => inRow 0x0000FC03#32 0x00000002#32 (tableWord (encode i))
  | .close .. => inRow 0x0000FC03#32 0x00000003#32 (tableWord (encode i))
  | .frameContinuation .. => inRow 0x3F#32 0x00#32 (tableWord (encode i))
  | .frameText .. => inRow 0x3F#32 0x01#32 (tableWord (encode i))
  | .frameBinary .. => inRow 0x3F#32 0x02#32 (tableWord (encode i))
  | .frameClose => inRow 0xFF#32 0x88#32 (tableWord (encode i))
  | .framePing => inRow 0xFF#32 0x89#32 (tableWord (encode i))
  | .framePong => inRow 0xFF#32 0x8A#32 (tableWord (encode i))
  | .lenL7 .. => i.wf = true →
      inRow 0x00#32 0x00#32 (tableWord (encode i)) ∧ ¬ inRow 0x7F#32 0x7E#32 (tableWord (encode i)) ∧
      ¬ inRow 0x7F#32 0x7F#32 (tableWord (encode i))
  | .lenL16 .. => inRow 0x7F#32 0x7E#32 (tableWord (encode i))
  | .lenL64 .. => inRow 0x7F#32 0x7F#32 (tableWord (encode i))

theorem send (fin bin cmp msk ro cb : Bool) (len : Len) (buf : Nat) :
    Statement (.send fin bin cmp msk ro cb len buf) := by
  simp only [Statement, inRow, tableWord, encode]
  revert fin bin cmp msk ro cb; decide

theorem ping (msk ro cb : Bool) (len : Len) (buf : Nat) : Statement (.ping msk ro cb len buf) := by
  simp only [Statement, inRow, tableWord, encode]
  revert msk ro cb; decide

theorem pong (msk ro cb : Bool) (len : Len) (buf : Nat) : Statement (.pong msk ro cb len buf) := by
  simp only [Statement, inRow, tableWord, encode]
  revert msk ro cb; decide

theorem close (msk cb : Bool) (code : CloseCode) (len : Len) (buf : Nat) :
    Statement (.close msk cb code len buf) := by
  simp only [Statement, inRow, tableWord, encode]
  cases code with
  | absent => revert msk cb; decide
  | given code valid =>
    simp only [encodeCloseCode, BitVec.and_or_distrib_right, code_outside_row]
    revert msk cb valid; decide

theorem frameContinuation (fin rsv1 : Bool) : Statement (.frameContinuation fin rsv1) := by
  simp only [Statement, inRow, tableWord, encode]
  revert fin rsv1; decide

theorem frameText (fin rsv1 : Bool) : Statement (.frameText fin rsv1) := by
  simp only [Statement, inRow, tableWord, encode]
  revert fin rsv1; decide

theorem frameBinary (fin rsv1 : Bool) : Statement (.frameBinary fin rsv1) := by
  simp only [Statement, inRow, tableWord, encode]
  revert fin rsv1; decide

theorem frameClose : Statement .frameClose := by
  simp only [Statement, inRow, tableWord, encode]; decide

theorem framePing : Statement .framePing := by
  simp only [Statement, inRow, tableWord, encode]; decide

theorem framePong : Statement .framePong := by
  simp only [Statement, inRow, tableWord, encode]; decide

theorem lenL7 (len7 : BitVec 7) (key : Option Key) : Statement (.lenL7 len7 key) := by
  simp only [Statement, inRow, tableWord, encode, Instr.wf, List.headD_cons]
  generalize key.isSome = m
  revert len7 m; decide

theorem lenL16 (n : BitVec 16) (key : Option Key) : Statement (.lenL16 n key) := by
  simp only [Statement, inRow, tableWord, encode, List.headD_cons, List.cons_append]
  generalize key.isSome = m
  revert m; decide

theorem lenL64 (n : BitVec 64) (key : Option Key) : Statement (.lenL64 n key) := by
  simp only [Statement, inRow, tableWord, encode, List.headD_cons, List.cons_append]
  generalize key.isSome = m
  revert m; decide

end Sys2Proof.Laws.EncodesToRow
end

