-- ==== Sys2Proof/Laws/Step.lean ====
section
/-!
SUPPORT. What a step can do, said once: the turn of one agent, and for each agent the cases of its turn. Every
invariant is derived from these.
-/

namespace Sys2Proof.Machine

/-- What the command port decodes to is a command. -/
theorem decode_command_isCommand {c : Command} {i : Instr} (h : decode (.command c) = .ok i) :
    isCommand i = true := by
  simp only [decode, decodeCommand] at h
  split at h
  · cases h
  · split at h <;> (injection h with h; subst h; rfl)

/-- What a byte 0 decodes to is a header form that takes one byte. -/
theorem decodeHeader0_form {b : Byte} {i : Instr} (h : decodeHeader0 b = .ok i) :
    isCommand i = false ∧ ∃ fin rsv1 op, formByte0 i = some (fin, rsv1, op) ∧
      ∀ s, exec i s = .next (readByte0 fin rsv1 op s) := by
  unfold decodeHeader0 at h
  repeat' split at h
  all_goals first
    | (injection h with h; subst h; exact ⟨rfl, _, _, _, rfl, fun _ => rfl⟩)
    | cases h

/-- What a header from byte 1 on decodes to is a length form. -/
theorem decodeHeader1_form {bs rest : List Byte} {i : Instr} (h : decodeHeader1 bs = .ok (i, rest)) :
    isCommand i = false ∧ ∀ s, exec i s = .next (readLength (formLength i) (formKey i) (headerSize i) s) := by
  unfold decodeHeader1 at h
  repeat' split at h
  all_goals first
    | (injection h with h; injection h with h h'; subst h; exact ⟨rfl, fun _ => rfl⟩)
    | cases h

/-- The checker's turn answers a next state that differs in the checker's registers alone. -/
theorem readerTurn_next (s : State) : ∃ r, readerTurn s = .next { s with reader := r } := by
  unfold readerTurn
  split
  · split
    · exact ⟨_, rfl⟩
    · split
      · exact ⟨_, rfl⟩
      · next hd =>
        obtain ⟨-, _, _, _, -, he⟩ := decodeHeader0_form hd
        exact ⟨_, he s⟩
  · split
    · exact ⟨_, rfl⟩
    · next i hd =>
      simp only [decode] at hd
      split at hd
      · next j r hj => injection hd with hd; subst hd; exact ⟨_, (decodeHeader1_form hj).2 s⟩
      · cases hd
  · unfold readPayload
    split <;> exact ⟨_, rfl⟩
  · exact ⟨_, rfl⟩

/-- A performed, held, stuck or answered command: everything a SEND can do. -/
theorem execSend_cases {fin bin cmp msk ro cb : Bool} {len : Len} {buf : Nat} {s t : State}
    (h : exec (.send fin bin cmp msk ro cb len buf) s = .next t) :
    t = s ∨ (canAccept s len buf ∧
      t = respond .ok (takeCommand (frameAndSend (Config.entropy s.draws) (sendOpcode s.firstFragment bin)
        (payloadAt s len buf) (some buf) ro fin cmp msk cb (sourceRange len buf) { s with firstFragment := fin }))) :=
  accept_acceptance_cases h

/-- Everything a PING can do. -/
theorem execPing_cases {msk ro cb : Bool} {len : Len} {buf : Nat} {s t : State}
    (h : exec (.ping msk ro cb len buf) s = .next t) :
    t = s ∨ (canAccept s len buf ∧
      t = respond .ok (takeCommand (frameAndSend (Config.entropy s.draws) opPing
        (payloadAt s len buf) (some buf) ro true false msk cb (sourceRange len buf) s))) :=
  accept_acceptance_cases h

/-- Everything a PONG can do. -/
theorem execPong_cases {msk ro cb : Bool} {len : Len} {buf : Nat} {s t : State}
    (h : exec (.pong msk ro cb len buf) s = .next t) :
    t = s ∨ (canAccept s len buf ∧
      t = respond .ok (takeCommand (frameAndSend (Config.entropy s.draws) opPong
        (payloadAt s len buf) (some buf) ro true false msk cb (sourceRange len buf) s))) :=
  accept_acceptance_cases h

/-- Everything a CLOSE can do. -/
theorem execClose_cases {msk cb : Bool} {code : CloseCode} {len : Len} {buf : Nat} {s t : State}
    (h : exec (.close msk cb code len buf) s = .next t) :
    t = s ∨ t = respond .invalidCloseCode (takeCommand s) ∨ (canClose s code len buf ∧
      t = respond .ok (takeCommand (frameAndSend (Config.entropy s.draws) opClose
        (closePayload code (payloadAt s len buf)) none false true false msk cb (sourceRange len buf) s))) :=
  accept_closeAcceptance_cases h

/-- An accepted SEND is performed and answered `OK` (R76 step 5). -/
theorem execSend_perform {fin bin cmp msk ro cb : Bool} {len : Len} {buf : Nat} {s : State} (h : canAccept s len buf) :
    exec (.send fin bin cmp msk ro cb len buf) s =
      .next (respond .ok (takeCommand (frameAndSend (Config.entropy s.draws) (sendOpcode s.firstFragment bin)
        (payloadAt s len buf) (some buf) ro fin cmp msk cb (sourceRange len buf) { s with firstFragment := fin }))) := by
  show accept (acceptance len buf s) s _ = _
  rw [(acceptance_perform_iff s len buf).mpr h]
  rfl

/-- An accepted PING is performed and answered `OK` (R76 step 5). -/
theorem execPing_perform {msk ro cb : Bool} {len : Len} {buf : Nat} {s : State} (h : canAccept s len buf) :
    exec (.ping msk ro cb len buf) s =
      .next (respond .ok (takeCommand (frameAndSend (Config.entropy s.draws) opPing (payloadAt s len buf) (some buf) ro
        true false msk cb (sourceRange len buf) s))) := by
  show accept (acceptance len buf s) s _ = _
  rw [(acceptance_perform_iff s len buf).mpr h]
  rfl

/-- An accepted PONG is performed and answered `OK` (R76 step 5). -/
theorem execPong_perform {msk ro cb : Bool} {len : Len} {buf : Nat} {s : State} (h : canAccept s len buf) :
    exec (.pong msk ro cb len buf) s =
      .next (respond .ok (takeCommand (frameAndSend (Config.entropy s.draws) opPong (payloadAt s len buf) (some buf) ro
        true false msk cb (sourceRange len buf) s))) := by
  show accept (acceptance len buf s) s _ = _
  rw [(acceptance_perform_iff s len buf).mpr h]
  rfl

/-- An accepted CLOSE is performed and answered `OK` (R76 step 5). -/
theorem execClose_perform {msk cb : Bool} {code : CloseCode} {len : Len} {buf : Nat} {s : State}
    (h : canClose s code len buf) :
    exec (.close msk cb code len buf) s =
      .next (respond .ok (takeCommand (frameAndSend (Config.entropy s.draws) opClose
        (closePayload code (payloadAt s len buf)) none false true false msk cb (sourceRange len buf) s))) := by
  show accept (closeAcceptance code len buf s) s _ = _
  rw [(closeAcceptance_perform_iff s code len buf).mpr h]
  rfl

/-- Everything ENC's turn can answer with a next state. -/
theorem encTurn_cases {s t : State} (h : encTurn s = .next t) :
    (s.port = none ∧ t = s) ∨ ∃ c i, s.port = some c ∧ decode (.command c) = .ok i ∧ exec i s = .next t := by
  unfold encTurn at h
  split at h
  · next hp => exact .inl ⟨hp, by simpa using h.symm⟩
  · next c hp =>
    split at h
    · cases h
    · next i hd => exact .inr ⟨c, i, hp, hd, h⟩

/-- Everything a step can answer with a next state: one agent's turn, then the choice of the next turn. -/
theorem step_cases {s t : State} (h : step s = .next t) :
    ∃ u, t = nextTurn u ∧
      ((s.turn = .host ∧ hostAct s = .next u) ∨
       (s.turn = .enc ∧ ((s.port = none ∧ u = s) ∨
          ∃ c i, s.port = some c ∧ decode (.command c) = .ok i ∧ exec i s = .next u)) ∨
       (s.turn = .drain ∧ u = drainIssue s) ∨
       (s.turn = .transport ∧ u = drainAnswer (Config.answer s.answers.length) s) ∨
       (s.turn = .reader ∧ ∃ r, u = { s with reader := r })) := by
  unfold step agentTurn at h
  obtain ⟨a, hs⟩ : ∃ a, s.turn = a := ⟨_, rfl⟩
  rw [hs] at h
  cases a with
  | host =>
    dsimp only at h
    cases ho : hostAct s with
    | next u => rw [ho] at h; exact ⟨u, (Host.Outcome.next.inj h).symm, .inl ⟨hs, rfl⟩⟩
    | fault f => rw [ho] at h; cases h
    | refused r => rw [ho] at h; cases h
  | enc =>
    dsimp only at h
    cases ho : encTurn s with
    | next u =>
      rw [ho] at h
      exact ⟨u, (Host.Outcome.next.inj h).symm, .inr (.inl ⟨hs, encTurn_cases ho⟩)⟩
    | fault f => rw [ho] at h; cases h
    | refused r => rw [ho] at h; cases h
  | drain => exact ⟨_, (Host.Outcome.next.inj h).symm, .inr (.inr (.inl ⟨hs, rfl⟩))⟩
  | transport => exact ⟨_, (Host.Outcome.next.inj h).symm, .inr (.inr (.inr (.inl ⟨hs, rfl⟩)))⟩
  | reader =>
    dsimp only at h
    obtain ⟨r, hr⟩ := readerTurn_next s
    rw [hr] at h
    exact ⟨_, (Host.Outcome.next.inj h).symm, .inr (.inr (.inr (.inr ⟨hs, r, rfl⟩)))⟩

end Sys2Proof.Machine
end

