-- ==== Sys2Proof/Tests/Slice0.lean ====
section
/-!
SUPPORT. Tests on fixed values, their expected results from spec/95_test_vectors.md or written out by hand from the
encodings of spec/30_encoding.md, and for every statement with hypotheses a witness that meets them.
-/

namespace Sys2Proof.Tests

open Sys2Proof.Machine

/-! ### The states the tests run on -/

/-- A parameter choice: `ADDR_W = 16`, an unbounded FIFO. -/
def params (threshold : Nat) (policy : MaskKeyPolicy) : Params := ⟨threshold, policy, .unbounded, 16⟩

/-- "Hello" at 0x300, and 0x05 in the memory's last byte. -/
def hello : Memory := [(0x300, 0x48#8), (0x301, 0x65#8), (0x302, 0x6C#8), (0x303, 0x6C#8), (0x304, 0x6F#8), (0xFFFF, 0x05#8)]

/-- "bye" at 0x300. -/
def bye : Memory := [(0x300, 0x62#8), (0x301, 0x79#8), (0x302, 0x65#8)]

/-- The threshold of R6 under `PER_FRAME`. -/
def base : State := { State.reset with cfg := params 32768 .perFrame, mem := hello }

/-- A low threshold under `CACHED`, with the key 37 FA 21 3D already drawn. -/
def keyed : State :=
  { State.reset with cfg := params 4 .cached, mem := hello, maskKey := 0x37FA213D#32, maskKeyValid := true }

/-- A low threshold under `CACHED`, with no key yet. -/
def unkeyed : State := { State.reset with cfg := params 4 .cached, mem := hello }

/-- A FIFO of depth 1 that is full (P4). -/
def full : State :=
  { base with cfg := ⟨32768, .perFrame, .bounded 0, 16⟩, fifo := [⟨.single [0x81#8, 0x00#8], false, ⟨0, 0⟩⟩] }

/-- The two-write job of a frame of five bytes. -/
def splitJob (cb : Bool) : Job := ⟨.split [0x82#8, 0x05#8] [0x48#8, 0x65#8, 0x6C#8, 0x6C#8, 0x6F#8], cb, ⟨0x300, 5⟩⟩

/-- The job's header write is outstanding. -/
def issued (cb : Bool) : State :=
  { base with fifo := [splitJob cb], drainBusy := true, writes := [[0x82#8, 0x05#8]], turn := .transport }

/-- The checker has these bytes to read. -/
def reading (phase : Phase) (bs : List Byte) : State :=
  { base with turn := .reader, reader := { Reader.reset with phase := phase, input := bs } }

/-- The outcome is a next state with the property. -/
def next? (o : Host.Outcome State Fault Refusal) (p : State → Bool) : Bool :=
  match o with
  | .next t => p t
  | .fault _ => false
  | .refused _ => false

/-- The jobs' writes. -/
def queued (t : State) : List (List (List Byte)) := t.fifo.map fun j => writeList j.writes

/-! ### Well-formedness: the one check, and an ill-formed term it refuses (R55, R56) -/

theorem test_wf_accepts_l7_125 : (Instr.lenL7 125#7 none).wf = true := by decide
theorem test_wf_refuses_l7_markers :
    (Instr.lenL7 126#7 none).wf = false ∧ (Instr.lenL7 127#7 (some 0#32)).wf = false := by decide

/-! ### Decoding: a word of each constructor (section 2.1 of the vectors; bits of R46, R54, R55) -/

/-- V-ENC-5, OP 00, FIN, BIN, MSK, RO, CB. -/
theorem test_decode_send : decode (.command ⟨0b00000000000000000000000011101100#32, 2#64, 7⟩) =
    .ok (.send true true false true true true 2#64 7) := by decide
/-- V-ENC-11, OP 01 with every field that PING ignores set. -/
theorem test_decode_ping : decode (.command ⟨0b11111111111111110000001100011101#32, 0#64, 0⟩) =
    .ok (.ping false false false 0#64 0) := by decide
/-- V-ENC-7, OP 10, MSK. -/
theorem test_decode_pong : decode (.command ⟨0b00000000000000000000000000100010#32, 0#64, 0⟩) =
    .ok (.pong true false false 0#64 0) := by decide
/-- V-ENC-9, OP 11, CB, CP, CV, CODE 1000; V-CL-3, CP = 0. -/
theorem test_decode_close :
    decode (.command ⟨0b00000011111010000000001110000011#32, 0#64, 0⟩) =
      .ok (.close false true (.given 1000#16 true) 0#64 0) ∧
    decode (.command ⟨0x03E70003#32, 3#64, 0x300⟩) = .ok (.close false false .absent 3#64 0x300) := by decide
/-- V-ENC-12, V-ENC-13. -/
theorem test_decode_refuses_reserved :
    decode (.command ⟨0x00000404#32, 0#64, 0⟩) = .error .reservedBits ∧
    decode (.command ⟨0x00008003#32, 0#64, 0⟩) = .error .reservedBits := by decide
/-- RSV1 = 1, FIN = 0 (V-HDR-2). -/
theorem test_decode_frameContinuation : decode (.header0 0b01000000#8) = .ok (.frameContinuation false true) := by decide
/-- FIN = 1, RSV1 = 1 (V-FSM-4). -/
theorem test_decode_frameText : decode (.header0 0b11000001#8) = .ok (.frameText true true) := by decide
/-- V-FSM-1. -/
theorem test_decode_frameBinary : decode (.header0 0b00000010#8) = .ok (.frameBinary false false) := by decide
theorem test_decode_frameClose : decode (.header0 0b10001000#8) = .ok .frameClose := by decide
theorem test_decode_framePing : decode (.header0 0b10001001#8) = .ok .framePing := by decide
theorem test_decode_framePong : decode (.header0 0b10001010#8) = .ok .framePong := by decide
/-- Bytes no frame of the block has (R60, R69). -/
theorem test_decode_refuses_byte0 :
    decode (.header0 0xA1#8) = .error .reservedRsv ∧ decode (.header0 0x83#8) = .error .unusedOpcode ∧
    decode (.header0 0x09#8) = .error .controlForm := by decide
/-- V-MSK-3. -/
theorem test_decode_lenL7 : decode (.header1 [0b10000101#8, 0x37#8, 0xFA#8, 0x21#8, 0x3D#8, 0x7F#8]) =
    .ok (.lenL7 5#7 (some 0x37FA213D#32)) := by decide
/-- V-LEN-12. -/
theorem test_decode_lenL16 : decode (.header1 [0b01111110#8, 0x01#8, 0x2C#8]) = .ok (.lenL16 300#16 none) := by decide
/-- V-LEN-9: the high half of the length is not dropped. -/
theorem test_decode_lenL64 : decode (.header1 [0b01111111#8, 0#8, 0#8, 0#8, 1#8, 0#8, 0#8, 0#8, 0#8]) =
    .ok (.lenL64 0x100000000#64 none) := by decide

/-! ### A word of every row of the opcode table runs as the first instruction after reset -/

theorem test_fetch_commands :
    ([0x00000000, 0x00000001, 0x00000002, 0x00000003].all fun w =>
      (decodeTableWord 32 w).isSome && next? (step (State.reset.withFetchWord 32 w)) fun t =>
        t.port.isNone && t.responses == [.ok]) = true := by decide
theorem test_fetch_headers :
    ([0x00, 0x01, 0x02, 0x88, 0x89, 0x8A, 0x85, 0x7E, 0x7F].all fun w =>
      (decodeTableWord 8 w).isSome && next? (step (State.reset.withFetchWord 8 w)) fun t =>
        t.reader.phase != State.reset.reader.phase) = true := by decide

/-! ### The frame primitives -/

/-- V-LEN-7 masked and V-LEN-12 unmasked; V-HDR-2. -/
theorem test_packHeader :
    packHeader 0x2#4 true false 65536#64 (some 0x37FA213D#32) =
      [0x82#8, 0xFF#8, 0#8, 0#8, 0#8, 0#8, 0#8, 1#8, 0#8, 0#8, 0x37#8, 0xFA#8, 0x21#8, 0x3D#8] ∧
    packHeader 0x2#4 true false 300#64 none = [0x82#8, 0x7E#8, 0x01#8, 0x2C#8] ∧
    packHeader 0x0#4 false true 200#64 none = [0x40#8, 0x7E#8, 0x00#8, 0xC8#8] := by decide
/-- V-MSK-2 and V-MSK-3. -/
theorem test_mask :
    mask [0#8, 0#8, 0#8, 0#8, 0#8] 0xA1B2C3D4#32 = [0xA1#8, 0xB2#8, 0xC3#8, 0xD4#8, 0xA1#8] ∧
    mask [0x48#8, 0x65#8, 0x6C#8, 0x6C#8, 0x6F#8] 0x37FA213D#32 = [0x7F#8, 0x9F#8, 0x4D#8, 0x51#8, 0x58#8] := by decide
/-- V-KEY-1 and V-KEY-2, the first frame, the draw given. -/
theorem test_key_policies :
    let f := fun s => frameAndSend 0x11223344#32 opText [0#8] (some 0) false true false true false ⟨0, 1⟩ s
    queued (f base) = [[[0x81#8, 0x81#8, 0x11#8, 0x22#8, 0x33#8, 0x44#8, 0x11#8]]] ∧
    (f base).maskKeyValid = false ∧ (f base).draws = 1 ∧
    queued (f unkeyed) = queued (f base) ∧ (f unkeyed).maskKey = 0x11223344#32 ∧
    (f unkeyed).maskKeyValid = true := by decide

/-! ### The commands -/

/-- V-FSM-11: BIN is ignored in `MessageMid`, CMP gives RSV1. -/
theorem test_send_continuation :
    next? (exec (.send false true true false false false 1#64 0x300)
        { base with firstFragment := false, mem := [(0x300, 0xEE#8)] }) (fun t =>
      queued t == [[[0x40#8, 0x01#8, 0xEE#8]]] && !t.firstFragment && t.responses == [.ok]) = true := by decide
/-- The split masked path writes the masked bytes back (R83; the bytes of V-MSK-3), at a threshold of 4. -/
theorem test_send_masks_in_place :
    next? (exec (.send true true false true false true 5#64 0x300) keyed) (fun t =>
      queued t == [[[0x82#8, 0x85#8, 0x37#8, 0xFA#8, 0x21#8, 0x3D#8], [0x7F#8, 0x9F#8, 0x4D#8, 0x51#8, 0x58#8]]] &&
      t.mem == [(0x300, 0x7F#8), (0x301, 0x9F#8), (0x302, 0x4D#8), (0x303, 0x51#8), (0x304, 0x58#8), (0xFFFF, 0x05#8)])
      = true := by decide
/-- V-PP-1's shape at the last byte of the memory (V-ERR-13); `first_fragment` stays (V-FSM-8). -/
theorem test_ping :
    next? (exec (.ping false false false 1#64 0xFFFF) { base with firstFragment := false }) (fun t =>
      queued t == [[[0x89#8, 0x01#8, 0x05#8]]] && !t.firstFragment) = true := by decide
/-- V-PP-8's shape: masked and read-only, merged at any length, the buffer unchanged. -/
theorem test_pong_read_only :
    next? (exec (.pong true true false 5#64 0x300) keyed) (fun t =>
      queued t == [[[0x8A#8, 0x85#8, 0x37#8, 0xFA#8, 0x21#8, 0x3D#8, 0x7F#8, 0x9F#8, 0x4D#8, 0x51#8, 0x58#8]]] &&
      t.mem == hello) = true := by decide
/-- V-CL-12. -/
theorem test_close_masked :
    next? (exec (.close true false (.given 1000#16 true) 3#64 0x300)
        { keyed with cfg := params 32768 .cached, mem := bye }) (fun t =>
      queued t ==
        [[[0x88#8, 0x85#8, 0x37#8, 0xFA#8, 0x21#8, 0x3D#8, 0x34#8, 0x12#8, 0x43#8, 0x44#8, 0x52#8]]] &&
      t.mem == bye) = true := by decide
/-- V-CL-2, and V-CL-9: the length has no step. -/
theorem test_close_default_and_stuck :
    next? (exec (.close false false .absent 0#64 0) base) (fun t =>
      queued t == [[[0x88#8, 0x02#8, 0x03#8, 0xE8#8]]]) = true ∧
    next? (exec (.close false false .absent 0xFFFFFFFFFFFFFFFE#64 0) base) (fun t => queued t == []) = true := by decide

/-! ### DRAIN and HOST -/

/-- V-ERR-5 and V-ERR-7. -/
theorem test_drain_answers :
    (drainAnswer .err (issued true)).completions = [.transportWriteFailure] ∧
    (drainAnswer .err (issued true)).fifo = [] ∧ (drainAnswer .err (issued true)).errorEvents = [] ∧
    (drainAnswer .ok (issued true)).drainNext = true ∧ (drainAnswer .ok (issued true)).completions = [] := by decide
/-- V-ERR-6, the second answer. -/
theorem test_drain_payload_error :
    (drainAnswer .err { issued false with drainNext := true }).errorEvents = [.transportWriteFailure] ∧
    (drainAnswer .err { issued false with drainNext := true }).completions = [] := by decide
/-- R129: HOST has no move that writes a pending buffer. -/
theorem test_host_store_in_flight :
    hostAct { issued true with host := [.store 0x304 [0#8]] } = .fault .hostStoreInFlight ∧
    hostAct { base with host := [.store 0xFFFF [0#8, 0#8]] } = .fault .hostStoreOutside :=
  ⟨rfl, rfl⟩

/-! ### The checker (V-MSK-3 and the headers of section 2.2, read by R63) -/

theorem test_frameContinuation_read :
    next? (readerTurn (reading .header0 [0x40#8, 0x01#8])) (fun t =>
      t.reader.opcode == 0x0#4 && !t.reader.fin && t.reader.rsv1 && t.reader.input == [0x01#8]) = true := by decide
theorem test_frameText_read :
    next? (readerTurn (reading .header0 [0x81#8])) (fun t =>
      t.reader.opcode == 0x1#4 && t.reader.fin && !t.reader.rsv1) = true := by decide
theorem test_frameBinary_read :
    next? (readerTurn (reading .header0 [0x02#8])) (fun t => t.reader.opcode == 0x2#4 && !t.reader.fin) = true := by decide
theorem test_control_bytes_read :
    next? (readerTurn (reading .header0 [0x88#8])) (fun t => t.reader.opcode == 0x8#4 && t.reader.fin) = true ∧
    next? (readerTurn (reading .header0 [0x89#8])) (fun t => t.reader.opcode == 0x9#4 && t.reader.fin) = true ∧
    next? (readerTurn (reading .header0 [0x8A#8])) (fun t => t.reader.opcode == 0xA#4 && t.reader.fin) = true := by decide
/-- V-LEN-3, masked: H = 6. -/
theorem test_lenL7_read :
    next? (readerTurn (reading .header1 [0xFD#8, 0x37#8, 0xFA#8, 0x21#8, 0x3D#8, 0xAA#8])) (fun t =>
      t.reader.len == 125#64 && t.reader.key == some 0x37FA213D#32 && t.reader.headerLen == 6 &&
      t.reader.input == [0xAA#8]) = true := by decide
/-- V-LEN-6: H = 4. -/
theorem test_lenL16_read :
    next? (readerTurn (reading .header1 [0x7E#8, 0xFF#8, 0xFF#8])) (fun t =>
      t.reader.len == 65535#64 && t.reader.key == none && t.reader.headerLen == 4) = true := by decide
/-- V-LEN-10: H = 10. -/
theorem test_lenL64_read :
    next? (readerTurn (reading .header1 [0x7F#8, 0x80#8, 0#8, 0#8, 0#8, 0#8, 0#8, 0#8, 0#8])) (fun t =>
      t.reader.len == 0x8000000000000000#64 && t.reader.headerLen == 10) = true := by decide

/-! ### Witnesses: a concrete state and operands for the hypotheses of each statement -/

theorem canAccept_hello : canAccept base 1#64 0xFFFF := ⟨.inr (by decide), by decide⟩
theorem canAccept_keyed : canAccept keyed 5#64 0x300 := ⟨.inr (by decide), by decide⟩
theorem canAccept_unkeyed : canAccept unkeyed 5#64 0x300 := ⟨.inr (by decide), by decide⟩

theorem witness_DecodeEncode : (Instr.lenL7 125#7 (some 1#32)).wf = true := by decide

theorem witness_EncodeDecodeHeader :
    decodeHeader0 0xC1#8 = .ok (.frameText true true) ∧
    decodeHeader1 [0xFE#8, 0x01#8, 0x2C#8, 1#8, 2#8, 3#8, 4#8, 9#8] = .ok (.lenL16 300#16 (some 0x01020304#32), [9#8]) := by
  decide

theorem witness_DecodedWellFormed : decode (.header1 [0x7D#8]) = .ok (.lenL7 125#7 none) := by decide

/-- The lowest and the highest reserved bit, and the words just beside them. -/
theorem witness_ReservedBitsRefused :
    let s := { base with port := some ⟨0x00000404#32, 0#64, 0⟩ }
    let t := { base with port := some ⟨0x00008003#32, 0#64, 0⟩ }
    s.turn = .enc ∧ s.port = some ⟨0x00000404#32, 0#64, 0⟩ ∧ (0x00000404#32).extractLsb' 10 6 ≠ 0#6 ∧
    t.turn = .enc ∧ t.port = some ⟨0x00008003#32, 0#64, 0⟩ ∧ (0x00008003#32).extractLsb' 10 6 ≠ 0#6 ∧
    (0xFFFF03FF#32).extractLsb' 10 6 = 0#6 := by decide

/-- One pair of words for each clause: SEND, PING, PONG, CLOSE without a code and with one. -/
theorem witness_IgnoredFields :
    let agree := fun c d : BitVec 32 =>
      c ≠ d ∧ c.extractLsb' 10 6 = 0#6 ∧ d.extractLsb' 10 6 = 0#6 ∧ c.extractLsb' 0 2 = d.extractLsb' 0 2
    (agree 0xFFFF03FC#32 0x000000FC#32 ∧ (0xFFFF03FC#32).extractLsb' 0 2 = 0#2 ∧
      (0xFFFF03FC#32).extractLsb' 2 6 = (0x000000FC#32).extractLsb' 2 6) ∧
    (agree 0xFFFF031D#32 0x00000001#32 ∧ (0xFFFF031D#32).extractLsb' 0 2 = 1#2 ∧
      (0xFFFF031D#32).extractLsb' 5 3 = (0x00000001#32).extractLsb' 5 3) ∧
    (agree 0x000000FE#32 0x000000E2#32 ∧ (0x000000FE#32).extractLsb' 0 2 = 2#2 ∧
      (0x000000FE#32).extractLsb' 5 3 = (0x000000E2#32).extractLsb' 5 3) ∧
    (agree 0x03E70203#32 0x00000003#32 ∧ (0x03E70203#32).extractLsb' 0 2 = 3#2 ∧
      (0x03E70203#32).getLsbD 5 = (0x00000003#32).getLsbD 5 ∧ (0x03E70203#32).getLsbD 7 = (0x00000003#32).getLsbD 7 ∧
      (0x03E70203#32).getLsbD 8 = false ∧ (0x00000003#32).getLsbD 8 = false) ∧
    (agree 0x03E8035F#32 0x03E80303#32 ∧ (0x03E8035F#32).extractLsb' 0 2 = 3#2 ∧
      (0x03E8035F#32).getLsbD 5 = (0x03E80303#32).getLsbD 5 ∧ (0x03E8035F#32).getLsbD 7 = (0x03E80303#32).getLsbD 7 ∧
      (0x03E8035F#32).getLsbD 8 = true ∧ (0x03E80303#32).getLsbD 8 = true ∧
      (0x03E8035F#32).getLsbD 9 = (0x03E80303#32).getLsbD 9 ∧
      (0x03E8035F#32).extractLsb' 16 16 = (0x03E80303#32).extractLsb' 16 16) := by decide

/-- An empty masked frame and a frame of form L16. -/
theorem witness_HeaderLength :
    (⟨true, false, 0x9#4, some 0#32, []⟩ : Frame).payload.length < 2 ^ 64 ∧
    (⟨true, false, 0x2#4, none, List.replicate 126 0#8⟩ : Frame).payload.length < 2 ^ 64 :=
  ⟨by decide, by rw [List.length_replicate]; decide⟩

/-- The clauses meet at 126 and at 65536, and each has one side only. -/
theorem witness_LengthForms :
    (125#64).toNat < 126 ∧ 126 ≤ (126#64).toNat ∧ (126#64).toNat ≤ 65535 ∧ 126 ≤ (65535#64).toNat ∧
    (65535#64).toNat ≤ 65535 ∧ 65536 ≤ (65536#64).toNat := by decide

theorem witness_MaskBytes :
    [1#8, 2#8, 3#8, 4#8, 5#8][4]? = some 5#8 ∧ (keyBytes 0xA1B2C3D4#32)[4 % 4]? = some 0xA1#8 := by decide

theorem witness_MaskInvolution : (keyBytes 0xA1B2C3D4#32)[4 % 4]? = (keyBytes 0xA1000000#32)[4 % 4]? := by decide

/-- A masked data frame, an empty masked one, and a control frame. -/
theorem witness_FrameReadsBack :
    emittable ⟨false, true, 0x0#4, some 0x11223344#32, [0xEE#8]⟩ = true ∧
    emittable ⟨true, false, 0x2#4, some 0#32, []⟩ = true ∧ emittable ⟨true, false, 0x8#4, none, [3#8, 0xE8#8]⟩ = true := by
  decide

/-- The last byte of the memory, an empty range past its end, and a bounded FIFO with room for one job. -/
theorem witness_SendCompletes :
    canAccept base 1#64 0xFFFF ∧ canAccept base 0#64 0x10000 ∧
    canAccept { base with cfg := ⟨32768, .perFrame, .bounded 0, 16⟩ } 5#64 0x300 :=
  ⟨canAccept_hello, ⟨.inl rfl, by decide⟩, ⟨.inr (by decide), by decide⟩⟩

theorem witness_PingPongComplete : canAccept base 1#64 0xFFFF ∧ canAccept (popJob full) 0#64 0 :=
  ⟨canAccept_hello, ⟨.inl rfl, by decide⟩⟩

theorem canClose_absent : canClose base .absent 5#64 0x300 :=
  ⟨by decide, ⟨.inr (by decide), by decide⟩, fun _ h => by cases h⟩

/-- No code, a valid code, and the longest LEN there is (R100) with an address space that holds it. -/
theorem witness_CloseCompletes :
    canClose base .absent 5#64 0x300 ∧ canClose base (.given 4000#16 true) 0#64 0 ∧
    canClose { base with cfg := ⟨32768, .perFrame, .unbounded, 64⟩ } .absent 0xFFFFFFFFFFFFFFFD#64 0 :=
  ⟨canClose_absent, ⟨by decide, ⟨.inl rfl, by decide⟩, fun _ h => by cases h⟩,
    ⟨by decide, ⟨.inr (by decide), by decide⟩, fun _ h => by cases h⟩⟩

theorem witness_EmptyFrame : fifoFull base = false ∧ fifoFull (popJob full) = false := by decide

/-- Also in a full FIFO (V-CL-8). -/
theorem witness_InvalidCloseCode :
    (0xFFFF#64).toNat ≤ 2 ^ 64 - 3 ∧ (0xFFFF#64 = 0#64 ∨ 1 + (0xFFFF#64).toNat ≤ 2 ^ full.cfg.addrW) := by decide

theorem witness_HoldWhenFull :
    full.cfg.fifoDepth = .bounded 0 ∧ full.fifo.length = 0 + 1 ∧ fifoFull full = true ∧
    ∀ c, CloseCode.absent ≠ .given c false :=
  ⟨rfl, rfl, rfl, fun _ h => by cases h⟩

/-- One byte past the end (V-ERR-12); a range that ends at the end (V-ERR-13) and an empty one (V-ERR-15); the last and
the first LEN a CLOSE may and may not have. -/
theorem witness_RangeAdmission :
    (2#64 ≠ 0#64 ∧ 2 ^ base.cfg.addrW < 0xFFFF + (2#64).toNat) ∧
    (0xFFFF + (1#64).toNat ≤ 2 ^ base.cfg.addrW ∧ fifoFull base = false) ∧ (0#64).toNat ≤ 2 ^ 64 - 3 ∧
    (∀ c, CloseCode.absent ≠ .given c false) ∧
    (0xFFFFFFFFFFFFFFFD#64).toNat ≤ 2 ^ 64 - 3 ∧ 2 ^ 64 - 3 < (0xFFFFFFFFFFFFFFFE#64).toNat :=
  ⟨by decide, by decide, by decide, fun _ h => (by cases h), by decide, by decide⟩

/-- Just below the threshold, at it, and at it with a masked read-only payload. -/
theorem witness_MergeDecision :
    (canAccept keyed 3#64 0x300 ∧ 3#64 ≠ 0#64 ∧ (3#64).toNat < keyed.cfg.mergeThreshold) ∧
    (canAccept keyed 4#64 0x300 ∧ 4#64 ≠ 0#64 ∧ ¬ (4#64).toNat < keyed.cfg.mergeThreshold) :=
  ⟨⟨⟨.inr (by decide), by decide⟩, by decide, by decide⟩, ⟨⟨.inr (by decide), by decide⟩, by decide, by decide⟩⟩

theorem witness_CloseMergeDecision :
    (canClose keyed .absent 1#64 0x300 ∧ 2 + (1#64).toNat < keyed.cfg.mergeThreshold) ∧
    (canClose keyed (.given 1000#16 true) 2#64 0x300 ∧ keyed.cfg.mergeThreshold ≤ 2 + (2#64).toNat) :=
  ⟨⟨⟨by decide, ⟨.inr (by decide), by decide⟩, fun _ h => by cases h⟩, by decide⟩,
    ⟨⟨by decide, ⟨.inr (by decide), by decide⟩, fun _ h => by cases h⟩, by decide⟩⟩

theorem witness_FragmentedMessage :
    let f : Fragment := ⟨true, false, false, false, false, 1#64, 0xFFFF⟩
    let g : Fragment := ⟨false, true, true, false, true, 0#64, 0x10000⟩
    base.firstFragment = true ∧ base.cfg.fifoDepth = .unbounded ∧
    ∀ h ∈ [f, g], h.len = 0#64 ∨ h.buf + h.len.toNat ≤ 2 ^ base.cfg.addrW := by decide

/-- At the threshold exactly, for each of the three operations. -/
theorem witness_InPlaceMasking :
    (∃ i : Instr, i = .send true false false true false false 4#64 0x300) ∧
    (∃ i : Instr, i = .ping true false false 4#64 0x300) ∧ (∃ i : Instr, i = .pong true false false 4#64 0x300) ∧
    Memory.wf keyed.mem = true ∧ canAccept keyed 4#64 0x300 ∧ writesBack keyed true false (4#64).toNat :=
  ⟨⟨_, rfl⟩, ⟨_, rfl⟩, ⟨_, rfl⟩, by decide, ⟨.inr (by decide), by decide⟩, by decide, by decide, by decide, by decide⟩

/-- A form that writes memory, and forms that do not: unmasked, and empty. -/
theorem witness_SendPingPongFrame :
    Memory.wf keyed.mem = true ∧
    (∃ t, exec (.send true false false true false true 5#64 0x300) keyed = .next t) ∧
    (∃ t, exec (.ping false true false 5#64 0x300) keyed = .next t) ∧
    (∃ t, exec (.pong true false false 0#64 0x300) keyed = .next t) :=
  ⟨by decide, ⟨_, rfl⟩, ⟨_, rfl⟩, ⟨_, rfl⟩⟩

theorem witness_CloseFrame :
    (∃ t, exec (.close true true .absent 5#64 0x300) keyed = .next t) ∧
    (∃ t, exec (.close false true (.given 1000#16 true) 5#64 0x300) keyed = .next t) :=
  ⟨⟨_, rfl⟩, ⟨_, rfl⟩⟩

/-- The three clauses: a fresh key each frame, a cached key, and the first draw of a cached key. -/
theorem witness_MaskKeySource :
    let i : Instr := .ping true false false 5#64 0x300
    isMasked i = true ∧ payloadLength i ≠ 0 ∧
    (performs { base with maskKey := 7#32 } i ∧ base.cfg.maskKeyPolicy = .perFrame) ∧
    (performs keyed i ∧ keyed.cfg.maskKeyPolicy = .cached ∧ keyed.maskKeyValid = true) ∧
    (performs unkeyed i ∧ unkeyed.cfg.maskKeyPolicy = .cached ∧ unkeyed.maskKeyValid = false) :=
  ⟨rfl, by decide, ⟨⟨.inr (by decide), by decide⟩, rfl⟩, ⟨canAccept_keyed, rfl, rfl⟩, ⟨canAccept_unkeyed, rfl, rfl⟩⟩

theorem witness_ControlIgnoresFragment :
    (∃ t, exec (.ping true false false 5#64 0x300) base = .next t) ∧
    (∃ t, exec (.pong false false true 0#64 0) base = .next t) ∧
    (∃ t, exec (.close false false .absent 5#64 0x300) base = .next t) :=
  ⟨⟨_, rfl⟩, ⟨_, rfl⟩, ⟨_, rfl⟩⟩

/-- A masked command that draws the key, and an unmasked one that leaves it unset. -/
theorem witness_UnsetKeyUnobserved :
    unkeyed.maskKeyValid = false ∧ isCommand (.send true false false true false false 5#64 0x300) = true ∧
    isCommand (.close false false .absent 0#64 0) = true := by decide

theorem witness_HeaderFormsFrame :
    isCommand (.frameText true false) = false ∧ (∃ t, exec (.frameText true false) keyed = .next t) ∧
    isCommand (.lenL64 1#64 none) = false ∧ (∃ t, exec (.lenL64 1#64 none) keyed = .next t) :=
  ⟨rfl, ⟨_, rfl⟩, rfl, ⟨_, rfl⟩⟩

/-- The masked "Hello" of V-MSK-3, and a byte of the next frame after it. -/
theorem witness_CheckerReadsFrame :
    let f : Frame := ⟨true, false, 0x1#4, some 0x37FA213D#32, [0x48#8, 0x65#8, 0x6C#8, 0x6C#8, 0x6F#8]⟩
    let s := reading .header0 [0x81#8, 0x85#8, 0x37#8, 0xFA#8, 0x21#8, 0x3D#8, 0x7F#8, 0x9F#8, 0x4D#8, 0x51#8, 0x58#8, 0x89#8]
    emittable f = true ∧ s.reader.phase = .header0 ∧ s.reader.input = frameWire f ++ [0x89#8] := by decide

/-- The three ways an instruction is decoded. -/
theorem witness_StepRunsDecoded :
    (let s := { base with port := some ⟨0x00000021#32, 0#64, 0⟩ };
      s.turn = .enc ∧ decode (.command ⟨0x00000021#32, 0#64, 0⟩) = .ok (.ping true false false 0#64 0) ∧
      ∃ t, exec (.ping true false false 0#64 0) s = .next t) ∧
    (let s := reading .header0 [0x88#8];
      s.turn = .reader ∧ s.reader.phase = .header0 ∧ s.reader.input = [0x88#8] ∧
      decode (.header0 0x88#8) = .ok .frameClose ∧ ∃ t, exec .frameClose s = .next t) ∧
    (let s := reading .header1 [0x02#8, 0x03#8];
      s.turn = .reader ∧ s.reader.phase = .header1 ∧ decode (.header1 s.reader.input) = .ok (.lenL7 2#7 none) ∧
      ∃ t, exec (.lenL7 2#7 none) s = .next t) :=
  ⟨⟨rfl, by decide, _, rfl⟩, ⟨rfl, rfl, rfl, by decide, _, rfl⟩, ⟨rfl, rfl, by decide, _, rfl⟩⟩

theorem witness_StopsOnly :
    step { base with port := some ⟨0x00000404#32, 0#64, 0⟩ } = .refused .reservedBits ∧
    step { base with turn := .host, host := [.store 0x10000 [0#8]] } = .fault .hostStoreOutside ∧
    step { issued true with turn := .host, host := [.store 0x304 [0#8]] } = .fault .hostStoreInFlight :=
  ⟨rfl, rfl, rfl⟩

/-- Each write of a two-write job; and the states with no issue step. -/
theorem witness_DrainIssues :
    (let s := { base with fifo := [splitJob true] };
      s.drainBusy = false ∧ s.fifo = [splitJob true] ∧
      (writeList (splitJob true).writes)[s.drainNext.toNat]? = some [0x82#8, 0x05#8]) ∧
    (let s := { base with fifo := [splitJob true], drainNext := true };
      s.drainBusy = false ∧
      (writeList (splitJob true).writes)[s.drainNext.toNat]? = some [0x48#8, 0x65#8, 0x6C#8, 0x6C#8, 0x6F#8]) ∧
    (issued true).drainBusy = true ∧ base.fifo = [] ∧ { base with turn := .drain }.turn = .drain := by decide

/-- The header's answer, and the payload's. -/
theorem witness_DrainAnswer :
    ((issued true).drainBusy = true ∧ (issued true).fifo = [splitJob true] ∧
      (issued true).drainNext.toNat + 1 < (writeList (splitJob true).writes).length) ∧
    (let s := { issued false with drainNext := true };
      s.drainBusy = true ∧ s.fifo = [splitJob false] ∧
      s.drainNext.toNat + 1 = (writeList (splitJob false).writes).length) := by decide

theorem witness_TransportTurn :
    (issued true).turn = .transport ∧ (issued true).drainBusy = true ∧
    { base with turn := .transport }.turn = .transport ∧ { base with turn := .transport }.drainBusy = false := by decide

theorem witness_JobDrains :
    let s := { base with fifo := [splitJob true, ⟨.single [0x89#8, 0x00#8], false, ⟨0, 0⟩⟩] }
    s.drainBusy = false ∧ s.drainNext = false ∧
    s.fifo = [splitJob true, ⟨.single [0x89#8, 0x00#8], false, ⟨0, 0⟩⟩] := by decide

/-- A state with a two-write job at the head and its header outstanding meets the invariant. -/
theorem inv_issued : Inv (issued true) where
  memWf := by decide
  memBounded := by unfold memoryBounded; decide
  depth := trivial
  drain := ⟨fun _ => ⟨by decide, by decide⟩, fun h => absurd h (by decide)⟩
  serial := by decide
  jobs := by
    intro j hj
    rw [List.mem_singleton.mp hj]
    exact ⟨⟨true, false, 0x2#4, none, [0x48#8, 0x65#8, 0x6C#8, 0x6C#8, 0x6F#8]⟩, by decide, .inr ⟨by decide, by decide⟩⟩
  ports := ⟨by decide, by decide, by decide⟩
  policy := by decide

theorem witness_InvStep : Inv (issued true) ∧ ∃ t, step (issued true) = .next t := ⟨inv_issued, _, rfl⟩

theorem witness_ConfigFixed : ∃ t, step (issued true) = .next t := ⟨_, rfl⟩

/-- A SEND with FIN = 0 at the start of a message. -/
theorem witness_FragmentWrittenBySend :
    ∃ t, step { base with port := some ⟨0x00000000#32, 5#64, 0x300⟩ } = .next t ∧ t.firstFragment ≠ true :=
  ⟨_, rfl, by decide⟩

theorem witness_CachedKeyStays :
    ∃ t, step { keyed with port := some ⟨0x00000024#32, 5#64, 0x300⟩ } = .next t ∧ keyed.maskKeyValid = true :=
  ⟨_, rfl, rfl⟩

/-- A SEND that masks in place, and a store of HOST's. -/
theorem witness_MemoryWriters :
    (∃ t, step { keyed with port := some ⟨0x00000024#32, 5#64, 0x300⟩ } = .next t ∧ t.mem ≠ hello) ∧
    (∃ t, step { keyed with turn := .host, host := [.store 0xFFFF [9#8]] } = .next t ∧ t.mem ≠ hello) :=
  ⟨⟨_, rfl, by decide⟩, ⟨_, rfl, by decide⟩⟩

/-- A step that queues a job, and one that presents a write. -/
theorem witness_QueueOrder :
    (∃ t, step { base with port := some ⟨0x00000001#32, 0#64, 0⟩ } = .next t ∧ t.fifo ≠ []) ∧
    (∃ t, step { base with turn := .drain, fifo := [splitJob true] } = .next t ∧ t.writes ≠ []) :=
  ⟨⟨_, rfl, by decide⟩, ⟨_, rfl, by decide⟩⟩

/-- HOST's first store and its neighbours: the bytes in flight are 0x300 to 0x304 of the queued job and 0x400 of the
command on the port. -/
def storing (a : Nat) (bs : List Byte) : State :=
  { issued true with turn := .host, host := [.store a bs], port := some ⟨0x00000001#32, 1#64, 0x400⟩ }

theorem heldByte_storing (a x : Nat) (bs : List Byte) :
    heldByte (storing a bs) x ↔ x = 0x400 ∨ (0x300 ≤ x ∧ x ≤ 0x304) := by
  simp [heldByte, storing, issued, splitJob]
  omega

/-- A free port, a busy port, and no action. -/
theorem witness_HostActs_present :
    let c : Command := ⟨0x00000001#32, 0#64, 0⟩
    { base with host := [.present c] }.host = .present c :: [] ∧ base.port = none ∧
    { base with port := some c }.port ≠ none ∧ base.host = [] ∧
    (∃ t, hostAct { base with turn := .host, host := [.present c] } = .next t) :=
  ⟨rfl, rfl, by decide, rfl, _, rfl⟩

/-- Stores just beside the bytes in flight, at their first and last byte, at the command's byte, at the memory's last byte
and one past it. -/
theorem witness_HostActs_store :
    (∀ a bs, (storing a bs).host = .store a bs :: []) ∧
    (∀ x, 0x2FF ≤ x → x < 0x2FF + 1 → ¬ heldByte (storing 0x2FF [9#8]) x) ∧
    (∀ x, 0x305 ≤ x → x < 0x305 + 1 → ¬ heldByte (storing 0x305 [9#8]) x) ∧
    (∀ x, 0xFFFF ≤ x → x < 0xFFFF + 1 → ¬ heldByte (storing 0xFFFF [9#8]) x) ∧ 0xFFFF + 1 ≤ 2 ^ base.cfg.addrW ∧
    heldByte (storing 0x300 [9#8]) 0x300 ∧ heldByte (storing 0x304 [9#8]) 0x304 ∧
    heldByte (storing 0x400 [9#8]) 0x400 ∧ 2 ^ base.cfg.addrW < 0x10000 + 1 ∧
    (∃ t, hostAct (storing 0x305 [9#8]) = .next t) ∧ hostAct (storing 0x304 [9#8]) = .fault .hostStoreInFlight := by
  refine ⟨fun _ _ => rfl, ?_, ?_, ?_, by decide, ?_, ?_, ?_, by decide, ⟨_, rfl⟩, rfl⟩
  all_goals (intros; rw [heldByte_storing]; omega)

theorem witness_MemoryCanonical :
    Memory.wf hello = true ∧ ∀ a, readByte hello a = readByte (writeByte hello 0x305 0#8) a := by
  have h : writeByte hello 0x305 0#8 = hello := by decide
  exact ⟨by decide, fun a => by rw [h]⟩

/-- ENC with no command; the checker with nothing there, a byte 0 no frame has, a header cut short, a payload one byte
short and one there whole, and lost. -/
theorem witness_TurnsWithoutInstruction :
    (base.turn = .enc ∧ base.port = none) ∧
    (let s := reading .header0 [];
      s.turn = .reader ∧ s.reader.phase = .header0 ∧ s.reader.input = []) ∧
    decode (.header0 0x83#8) = .error .unusedOpcode ∧
    (let s := reading .header1 [0x7E#8, 0x01#8];
      s.reader.phase = .header1 ∧ decode (.header1 s.reader.input) = .error .truncated) ∧
    (let s := { base with turn := .reader, reader := { Reader.reset with phase := .payload, len := 2#64, input := [7#8] } };
      s.turn = .reader ∧ s.reader.phase = .payload ∧ s.reader.input.length < s.reader.len.toNat) ∧
    (let s := { base with turn := .reader, reader := { Reader.reset with phase := .payload, len := 1#64, input := [7#8] } };
      s.turn = .reader ∧ s.reader.phase = .payload ∧ s.reader.input = [7#8] ++ [] ∧
      [7#8].length = s.reader.len.toNat) ∧
    (reading .lost [1#8]).reader.phase = .lost := by decide

end Sys2Proof.Tests
end

section
/-!
The four commands as one: the operands each gives `FrameAndSend` (spec/41_frame_and_send.md R87), the verdict of its
acceptance (R76), and the state it leaves when it is performed. What is said of `performed` is said of every command.
-/

namespace Sys2Proof.Machine

/-- The operands of `FrameAndSend` (R87), and the range the queued job keeps. -/
structure FrameArgs where
  opcode : BitVec 4
  payload : List Byte
  wb : Option Nat
  ro : Bool
  fin : Bool
  rsv1 : Bool
  masked : Bool
  cb : Bool
  src : Range

/-- The operands a command gives `FrameAndSend` (R96, R98, R99, R100). A header form gives none; the last line
is tied to no step. -/
def frameArgs (s : State) (i : Instr) : FrameArgs :=
  match i with
  | .send fin bin cmp msk ro cb len buf =>
    ⟨sendOpcode s.firstFragment bin, payloadAt s len buf, some buf, ro, fin, cmp, msk, cb, sourceRange len buf⟩
  | .ping msk ro cb len buf =>
    ⟨opPing, payloadAt s len buf, some buf, ro, true, false, msk, cb, sourceRange len buf⟩
  | .pong msk ro cb len buf =>
    ⟨opPong, payloadAt s len buf, some buf, ro, true, false, msk, cb, sourceRange len buf⟩
  | .close msk cb code len buf =>
    ⟨opClose, closePayload code (payloadAt s len buf), none, false, true, false, msk, cb, sourceRange len buf⟩
  | _ => ⟨opContinuation, [], none, false, false, false, false, false, ⟨0, 0⟩⟩

/-- `first_fragment` after a performed command: the FIN of a SEND, else as it was (R94, R95). -/
def fragmentAfter (s : State) (i : Instr) : Bool :=
  match i with
  | .send fin _ _ _ _ _ _ _ => fin
  | _ => s.firstFragment

/-- `FrameAndSend` on given operands. -/
def runFrame (draw : Key) (a : FrameArgs) (s : State) : State :=
  frameAndSend draw a.opcode a.payload a.wb a.ro a.fin a.rsv1 a.masked a.cb a.src s

/-- The state a command's `FrameAndSend` leaves. -/
def framed (s : State) (i : Instr) : State :=
  runFrame (Config.entropy s.draws) (frameArgs s i) { s with firstFragment := fragmentAfter s i }

/-- The state a performed command leaves (R76 step 5). -/
def performed (s : State) (i : Instr) : State :=
  respond .ok (takeCommand (framed s i))

/-- The verdict of a command's acceptance (R76). A header form has none; the last line is tied to no step. -/
def verdict (s : State) (i : Instr) : Verdict :=
  match i with
  | .send _ _ _ _ _ _ len buf | .ping _ _ _ len buf | .pong _ _ _ len buf => acceptance len buf s
  | .close _ _ code len buf => closeAcceptance code len buf s
  | _ => .stuck

/-- A CLOSE with a code that the validator rejected (R103). -/
def codeRejected (i : Instr) : Prop :=
  ∃ msk cb c len buf, i = .close msk cb (.given c false) len buf

/-! ### Acceptance -/

/-- A command runs its acceptance: its verdict decides between the state as it is and what `FrameAndSend` leaves. -/
theorem exec_command {i : Instr} (hi : isCommand i = true) (s : State) :
    exec i s = accept (verdict s i) s (framed s i) := by
  cases i with
  | send | ping | pong | close => rfl
  | _ => cases hi

theorem verdict_perform_iff {i : Instr} (hi : isCommand i = true) (s : State) :
    verdict s i = .perform ↔ performs s i := by
  cases i with
  | send | ping | pong => exact acceptance_perform_iff ..
  | close => exact closeAcceptance_perform_iff ..
  | _ => cases hi

/-- Only a CLOSE whose code is rejected is answered `INVALID_CLOSE_CODE` (R107). -/
theorem codeRejected_of_verdict {i : Instr} {s : State} (h : verdict s i = .invalidCode) : codeRejected i := by
  cases i with
  | send _ _ _ _ _ _ len buf | ping _ _ _ len buf | pong _ _ _ len buf =>
    rcases acceptance_cases s len buf with hv | hv | hv <;> cases hv.symm.trans h
  | close msk cb code len buf =>
    simp only [verdict, closeAcceptance] at h
    split at h
    · cases h
    · split at h
      · cases h
      · split at h
        · exact ⟨_, _, _, _, _, rfl⟩
        · split at h <;> cases h
  | _ => cases h

/-- Everything a command can do: nothing, the answer `INVALID_CLOSE_CODE`, or all of R76 step 5. -/
theorem exec_command_cases {i : Instr} {s t : State} (hi : isCommand i = true) (h : exec i s = .next t) :
    t = s ∨ t = respond .invalidCloseCode (takeCommand s) ∨ (performs s i ∧ t = performed s i) := by
  rw [exec_command hi] at h
  rcases accept_cases h with ⟨-, ht⟩ | ⟨-, ht⟩ | ⟨hv, ht⟩
  · exact .inl ht
  · exact .inr (.inl ht)
  · exact .inr (.inr ⟨(verdict_perform_iff hi s).mp hv, ht⟩)

/-- No command is performed while the FIFO is full (R21). -/
theorem fifoFull_of_performs {s : State} {i : Instr} (h : performs s i) : fifoFull s = false := by
  cases i with
  | send | ping | pong => exact h.2
  | close =>
    obtain ⟨-, ⟨-, hf⟩, -⟩ := h
    exact hf
  | _ => cases h

/-! ### What the operands are -/

@[simp] theorem payloadAt_length (s : State) (len : Len) (buf : Nat) : (payloadAt s len buf).length = len.toNat :=
  memRead_length ..

theorem closePayload_length (code : CloseCode) (reason : List Byte) :
    (closePayload code reason).length = 2 + reason.length := by
  cases code <;> simp [closePayload]

/-- The payload length fits 64 bits: LEN is a `u64` (R46), and a CLOSE with a longer reason is stuck (R100). -/
theorem frameArgs_payload_lt {s : State} {i : Instr} (h : performs s i) :
    (frameArgs s i).payload.length < 2 ^ 64 := by
  cases i with
  | send _ _ _ _ _ _ len buf | ping _ _ _ len buf | pong _ _ _ len buf =>
    simpa [frameArgs] using len.isLt
  | close _ _ code len buf =>
    obtain ⟨hlen, -, -⟩ := h
    simp only [frameArgs, closePayload_length, payloadAt_length]
    omega
  | _ => cases h

/-- The opcode and flags of a command's frame: a data frame, or a control frame that is final and not compressed
(R59, R104). -/
theorem frameArgs_opcode {s : State} {i : Instr} (h : performs s i) :
    isData (frameArgs s i).opcode = true ∨
      (isControl (frameArgs s i).opcode = true ∧ (frameArgs s i).fin = true ∧ (frameArgs s i).rsv1 = false) := by
  cases i with
  | send fin bin =>
    left
    show isData (sendOpcode s.firstFragment bin) = true
    cases s.firstFragment <;> cases bin <;> decide
  | ping | pong | close => exact .inr ⟨rfl, rfl, rfl⟩
  | _ => cases h

/-- A buffer that may be written back lies inside the memory (R32). -/
theorem frameArgs_wb_inside {s : State} {i : Instr} {a : Nat} (h : performs s i) (ha : (frameArgs s i).wb = some a)
    (hp : (frameArgs s i).payload ≠ []) : a + (frameArgs s i).payload.length ≤ 2 ^ s.cfg.addrW := by
  cases i with
  | send _ _ _ _ _ _ len buf | ping _ _ _ len buf | pong _ _ _ len buf =>
    obtain ⟨hr, -⟩ := h
    cases ha
    rcases hr with rfl | hr
    · exact absurd rfl hp
    · simpa [frameArgs] using hr
  | close => cases ha
  | _ => cases h

/-! ### What a performed command leaves -/

section
variable (s : State) (i : Instr)

@[simp] theorem performed_cfg : (performed s i).cfg = s.cfg := by simp [performed, framed, runFrame]
@[simp] theorem performed_firstFragment : (performed s i).firstFragment = fragmentAfter s i := by
  simp [performed, framed, runFrame]
@[simp] theorem performed_drainNext : (performed s i).drainNext = s.drainNext := by
  simp [performed, framed, runFrame]
@[simp] theorem performed_drainBusy : (performed s i).drainBusy = s.drainBusy := by
  simp [performed, framed, runFrame]
@[simp] theorem performed_port : (performed s i).port = none := by simp [performed]
@[simp] theorem performed_responses : (performed s i).responses = s.responses ++ [.ok] := by
  simp [performed, framed, runFrame]
@[simp] theorem performed_completions : (performed s i).completions = s.completions := by
  simp [performed, framed, runFrame]
@[simp] theorem performed_errorEvents : (performed s i).errorEvents = s.errorEvents := by
  simp [performed, framed, runFrame]
@[simp] theorem performed_writes : (performed s i).writes = s.writes := by simp [performed, framed, runFrame]
@[simp] theorem performed_answers : (performed s i).answers = s.answers := by simp [performed, framed, runFrame]

end

/-- The job a performed command queues (R20, R86). -/
def performedJob (s : State) (i : Instr) : Job :=
  let a := frameArgs s i
  ⟨sentWrites (Config.entropy s.draws) a.opcode a.payload a.ro a.fin a.rsv1 a.masked
    { s with firstFragment := fragmentAfter s i }, a.cb, a.src⟩

@[simp] theorem performed_fifo (s : State) (i : Instr) : (performed s i).fifo = s.fifo ++ [performedJob s i] :=
  frameAndSend_fifo ..

/-- The payload memory after a performed command: as it was, or written where its operands allow it. -/
theorem performed_mem (s : State) (i : Instr) :
    (performed s i).mem = s.mem ∨
      ∃ a k, (frameArgs s i).wb = some a ∧ (frameArgs s i).payload ≠ [] ∧
        (performed s i).mem = memWrite s.mem a (mask (frameArgs s i).payload k) := by
  have hm : (performed s i).mem = _ := frameAndSend_mem ..
  split at hm
  · next hc =>
    obtain ⟨-, -, hp, -⟩ := hc
    split at hm
    · exact .inl hm
    · next a ha => exact .inr ⟨a, _, ha, hp, hm⟩
  · exact .inl hm

/-- The key registers after a performed command: as they were, or as `MaskKey()` leaves them (R71, R85). -/
theorem performed_keys (s : State) (i : Instr) :
    ((performed s i).maskKey = s.maskKey ∧ (performed s i).maskKeyValid = s.maskKeyValid) ∨
      ∃ draw b, (performed s i).maskKey = (noteKey draw { s with firstFragment := b }).maskKey ∧
        (performed s i).maskKeyValid = (noteKey draw { s with firstFragment := b }).maskKeyValid := by
  obtain ⟨hk, hv, -⟩ : (performed s i).maskKey = _ ∧ (performed s i).maskKeyValid = _ ∧ _ := frameAndSend_key ..
  rw [hk, hv]
  split
  · exact .inr ⟨_, _, rfl, rfl⟩
  · exact .inl ⟨rfl, rfl⟩

/-- A performed command leaves a cached key (R72). -/
theorem performed_cachedKey {s : State} (i : Instr) (hv : s.maskKeyValid = true) :
    (performed s i).maskKeyValid = true ∧ (performed s i).maskKey = s.maskKey := by
  rcases performed_keys s i with ⟨hk, hv'⟩ | ⟨draw, b, hk, hv'⟩
  · exact ⟨hv'.trans hv, hk⟩
  · rw [hk, hv']
    exact noteKey_keeps (s := { s with firstFragment := b }) hv

/-- Under `PER_FRAME` a performed command caches no key (R17, R71). -/
theorem performed_perFrame {s : State} (i : Instr) (hc : s.cfg.maskKeyPolicy = .perFrame) :
    (performed s i).maskKeyValid = s.maskKeyValid := by
  rcases performed_keys s i with ⟨-, hv⟩ | ⟨draw, b, -, hv⟩
  · exact hv
  · rw [hv, noteKey_perFrame (s := { s with firstFragment := b }) hc]

/-! ### The job a performed command queues -/

/-- `FrameAndSend` makes a frame the block can emit, from an opcode and flags of R59 and R104 and a payload of at most
`2^64 - 1` bytes. -/
theorem emittable_sentFrame {draw : Key} {opcode : BitVec 4} {p : List Byte} {fin rsv1 masked : Bool} {s : State}
    (hop : isData opcode = true ∨ (isControl opcode = true ∧ fin = true ∧ rsv1 = false))
    (hp : p.length < 2 ^ 64) : emittable (sentFrame draw opcode p fin rsv1 masked s) = true := by
  have hform : (isData opcode || (isControl opcode && fin && !(rsv1 && !p.isEmpty))) = true := by
    rcases hop with hd | ⟨hc, rfl, rfl⟩
    · simp [hd]
    · simp [hc]
  have hempty : (decide (p.length ≠ 0) || (!(rsv1 && !p.isEmpty) &&
      (sentKey draw masked p s == none || sentKey draw masked p s == some 0#32))) = true := by
    cases p with
    | nil => cases masked <;> simp [sentKey]
    | cons => simp
  simp only [emittable, Bool.and_eq_true]
  exact ⟨⟨hform, hempty⟩, decide_eq_true hp⟩

/-- The writes of a job of `FrameAndSend` carry its frame (R33, R53). -/
theorem jobOk_sentWrites {draw : Key} {opcode : BitVec 4} {p : List Byte} {ro fin rsv1 masked : Bool} {s : State}
    (cb : Bool) (src : Range) (hf : emittable (sentFrame draw opcode p fin rsv1 masked s) = true) :
    jobOk ⟨sentWrites draw opcode p ro fin rsv1 masked s, cb, src⟩ := by
  refine ⟨_, hf, ?_⟩
  unfold sentWrites
  dsimp only
  split
  · exact .inl rfl
  · next h => exact .inr ⟨fun hp => h (.inl hp), rfl⟩

theorem jobOk_performedJob {s : State} {i : Instr} (h : performs s i) : jobOk (performedJob s i) :=
  jobOk_sentWrites _ _ (emittable_sentFrame (frameArgs_opcode h) (frameArgs_payload_lt h))

end Sys2Proof.Machine
end

section
/-!
The invariant of the machine: it holds at reset, and every agent's turn keeps it (spec/10_state.md).
-/

namespace Sys2Proof.Machine

/-! ### Parts of the invariant -/

/-- The outstanding write is write `drain_next` of the head job (R22). -/
theorem outstanding_eq {s : State} {j : Job} {js : List Job} {w : List Byte} (hq : s.fifo = j :: js)
    (hw : writeAt j.writes s.drainNext = some w) : outstanding s = w := by
  simp only [outstanding, hq, hw]

/-- A job queued at the tail leaves the drain position and the outstanding write (R20, R22). -/
theorem drainOk_of_enqueued {s t : State} {j : Job} (h : drainOk s) (hq : t.fifo = s.fifo ++ [j])
    (hn : t.drainNext = s.drainNext) (hb : t.drainBusy = s.drainBusy) (hw : t.writes = s.writes) : drainOk t := by
  obtain ⟨hbusy, hnext⟩ := h
  constructor
  · intro htb
    obtain ⟨hne, hlast⟩ := hbusy (hb ▸ htb)
    have hout : outstanding t = outstanding s := by
      cases hs : s.fifo with
      | nil => exact absurd hs hne
      | cons k ks => simp only [outstanding, hq, hs, hn, List.cons_append]
    exact ⟨by simp [hq], by rw [hw, hout, hlast]⟩
  · intro htn
    obtain ⟨hdr, body, cb, src, rest, hs⟩ := hnext (hn ▸ htn)
    exact ⟨hdr, body, cb, src, rest ++ [j], by rw [hq, hs, List.cons_append]⟩

/-- A FIFO with room takes one more job (R21). -/
theorem depthOk_of_enqueued {s t : State} {j : Job} (h : depthOk s) (hf : fifoFull s = false) (hc : t.cfg = s.cfg)
    (hq : t.fifo = s.fifo ++ [j]) : depthOk t := by
  unfold depthOk at h ⊢
  rw [hc, hq]
  split
  · trivial
  · next m hm =>
    rw [hm] at h
    have := depth_of_room hm h hf
    simpa using this

/-- An empty FIFO meets every depth: the depth is at least 1 (R21). -/
theorem depthOk_of_empty {s : State} (hq : s.fifo = []) : depthOk s := by
  unfold depthOk
  split
  · trivial
  · simp [hq]

/-- A FIFO that grows no longer keeps its depth (R21). -/
theorem depthOk_of_le {s t : State} (h : depthOk s) (hc : t.cfg = s.cfg) (hl : t.fifo.length ≤ s.fifo.length) :
    depthOk t := by
  unfold depthOk at h ⊢
  rw [hc]
  split
  · trivial
  · next m hm =>
    rw [hm] at h
    exact hl.trans h

/-- `MemWrite` inside the memory lists no address outside it (R31). -/
theorem memoryBounded_of_memWrite {s t : State} {a : Nat} {bs : List Byte} (h : memoryBounded s) (hc : t.cfg = s.cfg)
    (hm : t.mem = memWrite s.mem a bs) (ha : a + bs.length ≤ 2 ^ s.cfg.addrW) : memoryBounded t := by
  intro c hcm
  rw [hc]
  rcases mem_memWrite (hm ▸ hcm) with hs | ⟨-, hlt⟩
  · exact h c hs
  · omega

/-- The invariant does not speak of the command port, of HOST's list, of the checker or of the turn. -/
theorem inv_agents {s : State} (h : Inv s) (port : Option Command) (host : List HostAction) (reader : Reader)
    (steps : Nat) (turn : Agent) :
    Inv { s with port := port, host := host, reader := reader, steps := steps, turn := turn } :=
  ⟨h.memWf, h.memBounded, h.depth, h.drain, h.serial, h.jobs, h.ports, h.policy⟩

theorem nextTurn_inv {s : State} (h : Inv s) : Inv (nextTurn s) :=
  inv_agents h s.port s.host s.reader _ _

/-! ### HOST -/

theorem hostAct_inv {s t : State} (h : Inv s) (ht : hostAct s = .next t) : Inv t := by
  rcases hostAct_cases ht with rfl | ⟨c, rest, -, rfl⟩ | ⟨a, bs, rest, -, ha, rfl⟩
  · exact h
  · exact inv_agents h (some c) rest s.reader s.steps s.turn
  · exact { h with
      memWf := memWrite_wf a bs h.memWf
      memBounded := memoryBounded_of_memWrite h.memBounded rfl rfl ha }

/-! ### ENC -/

theorem invalidCode_inv {s : State} (h : Inv s) : Inv (respond .invalidCloseCode (takeCommand s)) :=
  { h with
    ports := by
      obtain ⟨hr, hc, he⟩ := h.ports
      refine ⟨?_, hc, he⟩
      simpa [or_imp, forall_and] using hr }

theorem performed_inv {s : State} {i : Instr} (h : Inv s) (hp : performs s i) : Inv (performed s i) where
  memWf := by
    rcases performed_mem s i with hm | ⟨a, k, -, -, hm⟩
    · rw [hm]; exact h.memWf
    · rw [hm]; exact memWrite_wf _ _ h.memWf
  memBounded := by
    rcases performed_mem s i with hm | ⟨a, k, ha, hne, hm⟩
    · unfold memoryBounded
      rw [hm, performed_cfg]
      exact h.memBounded
    · refine memoryBounded_of_memWrite h.memBounded (performed_cfg s i) hm ?_
      rw [mask_length]
      exact frameArgs_wb_inside hp ha hne
  depth := depthOk_of_enqueued h.depth (fifoFull_of_performs hp) (performed_cfg s i) (performed_fifo s i)
  drain := drainOk_of_enqueued h.drain (performed_fifo s i) (performed_drainNext s i) (performed_drainBusy s i)
    (performed_writes s i)
  serial := by simpa using h.serial
  jobs := by
    intro j hj
    rw [performed_fifo] at hj
    rcases List.mem_append.mp hj with hj | hj
    · exact h.jobs j hj
    · rw [List.mem_singleton.mp hj]
      exact jobOk_performedJob hp
  ports := by
    obtain ⟨hr, hc, he⟩ := h.ports
    refine ⟨?_, by simpa using hc, by simpa using he⟩
    simpa [or_imp, forall_and] using hr
  policy := by
    intro hpol
    rw [performed_cfg] at hpol
    rw [performed_perFrame i hpol]
    exact h.policy hpol

theorem exec_command_inv {i : Instr} {s t : State} (h : Inv s) (hi : isCommand i = true) (ht : exec i s = .next t) :
    Inv t := by
  rcases exec_command_cases hi ht with rfl | rfl | ⟨hp, rfl⟩
  · exact h
  · exact invalidCode_inv h
  · exact performed_inv h hp

/-! ### DRAIN and TRANSPORT -/

theorem drainIssue_inv {s : State} (h : Inv s) : Inv (drainIssue s) := by
  rcases drainIssue_cases s with he | ⟨j, js, w, hb, hq, hw, he⟩
  · rw [he]; exact h
  · rw [he]
    obtain ⟨-, hnext⟩ := h.drain
    have hout : outstanding { s with writes := s.writes ++ [w], drainBusy := true } = w := outstanding_eq hq hw
    have hserial := h.serial
    exact { h with
      drain := ⟨fun _ => ⟨by simp [hq], by rw [hout]; simp⟩, hnext⟩
      serial := by simpa [hb] using hserial }

/-- DRAIN's answer step leaves the FIFO, or pops the head while its write is outstanding (R89). -/
theorem drainAnswer_fifo (a : Answer) (s : State) :
    (drainAnswer a s).fifo = s.fifo ∨
      (s.drainBusy = true ∧ ∃ j, s.fifo = j :: (drainAnswer a s).fifo) := by
  rcases drainAnswer_cases a s with he | ⟨j, js, hb, hq, -, -, hstep⟩
  · exact .inl (by rw [he])
  · rcases hstep with ⟨-, -, -, hf, -⟩ | ⟨-, -, -, hf, -⟩ | ⟨-, -, hf, -⟩
    · exact .inl hf
    · exact .inr ⟨hb, j, by rw [hf, hq]⟩
    · exact .inr ⟨hb, j, by rw [hf, hq]⟩

theorem drainAnswer_fifo_suffix (a : Answer) (s : State) : (drainAnswer a s).fifo <:+ s.fifo := by
  rcases drainAnswer_fifo a s with hf | ⟨-, j, hf⟩
  · rw [hf]
  · rw [hf]; exact List.suffix_cons ..

/-- After an answer nothing is outstanding, and the second write is next only of a two-write job (R22, R89). -/
theorem drainAnswer_drainOk {a : Answer} {s : State} (h : drainOk s) : drainOk (drainAnswer a s) := by
  rcases drainAnswer_cases a s with he | ⟨j, js, -, hq, hb, -, hstep⟩
  · rw [he]; exact h
  · refine ⟨fun hbusy => (by simp [hb] at hbusy), fun hnext => ?_⟩
    rcases hstep with ⟨-, hmore, -, hf, -⟩ | ⟨-, -, hn, -⟩ | ⟨-, hn, -⟩
    · obtain ⟨writes, cb, src⟩ := j
      cases writes with
      | single => cases hmore
      | split hdr body => exact ⟨hdr, body, cb, src, js, by rw [hf, hq]⟩
    · simp [hn] at hnext
    · simp [hn] at hnext

/-- An answer to the outstanding write evens the writes and the answers (R41). -/
theorem drainAnswer_serial {a : Answer} {s : State} (h : s.writes.length = s.answers.length + s.drainBusy.toNat) :
    (drainAnswer a s).writes.length = (drainAnswer a s).answers.length + (drainAnswer a s).drainBusy.toNat := by
  rcases drainAnswer_cases a s with he | ⟨j, js, hbusy, -, hb, ha, -⟩
  · rw [he]; exact h
  · rw [hbusy] at h
    simpa [hb, ha] using h

/-- DRAIN drives `OK` or `TRANSPORT_WRITE_FAILURE`, and `OK` on the completion port alone (R89, R110). -/
theorem drainAnswer_ports {a : Answer} {s : State} (h : portsOk s) : portsOk (drainAnswer a s) := by
  obtain ⟨hr, hc, he⟩ := h
  rcases drainAnswer_cases a s with heq | ⟨j, js, -, -, -, -, hstep⟩
  · rw [heq]; exact ⟨hr, hc, he⟩
  · unfold portsOk
    rw [drainAnswer_responses]
    rcases hstep with ⟨-, -, -, -, hc', he'⟩ | ⟨-, -, -, -, hc', he'⟩ | ⟨-, -, -, hc', he'⟩
    · rw [hc', he']; exact ⟨hr, hc, he⟩
    · rw [hc', he']
      refine ⟨hr, ?_, he⟩
      cases j.cb <;> simpa [or_imp, forall_and] using hc
    · rw [hc', he']
      refine ⟨hr, ?_, ?_⟩
      · cases j.cb <;> simpa [or_imp, forall_and] using hc
      · cases j.cb <;> simpa [or_imp, forall_and] using he

theorem drainAnswer_inv {a : Answer} {s : State} (h : Inv s) : Inv (drainAnswer a s) where
  memWf := by rw [drainAnswer_mem]; exact h.memWf
  memBounded := by
    unfold memoryBounded
    rw [drainAnswer_mem, drainAnswer_cfg]
    exact h.memBounded
  depth := depthOk_of_le h.depth (drainAnswer_cfg a s) (drainAnswer_fifo_suffix a s).length_le
  drain := drainAnswer_drainOk h.drain
  serial := drainAnswer_serial h.serial
  jobs := fun j hj => h.jobs j ((drainAnswer_fifo_suffix a s).subset hj)
  ports := drainAnswer_ports h.ports
  policy := by rw [drainAnswer_cfg, drainAnswer_maskKeyValid]; exact h.policy

/-! ### The obligations -/

/-- Settles O45: each agent's turn keeps the invariant, and so does the choice of the next turn. -/
theorem invStep : Obligations.InvStep := by
  unfold Obligations.InvStep
  intro s t h ht
  obtain ⟨u, rfl, hturn⟩ := step_cases ht
  refine nextTurn_inv ?_
  rcases hturn with ⟨-, hu⟩ | ⟨-, henc⟩ | ⟨-, rfl⟩ | ⟨-, rfl⟩ | ⟨-, r, rfl⟩
  · exact hostAct_inv h hu
  · rcases henc with ⟨-, rfl⟩ | ⟨c, i, -, hd, he⟩
    · exact h
    · exact exec_command_inv h (decode_command_isCommand hd) he
  · exact drainIssue_inv h
  · exact drainAnswer_inv h
  · exact inv_agents h s.port s.host r s.steps s.turn

/-- Settles O44: at reset nothing is queued, driven or listed. -/
theorem invReset : Obligations.InvReset := by
  unfold Obligations.InvReset
  exact
    { memWf := reset_mem_wf
      memBounded := fun _ hc => nomatch hc
      depth := depthOk_of_empty rfl
      drain := ⟨fun hb => (nomatch hb), fun hn => (nomatch hn)⟩
      serial := rfl
      jobs := fun _ hj => nomatch hj
      ports := ⟨fun _ h => (nomatch h), fun _ h => (nomatch h), fun _ h => (nomatch h)⟩
      policy := fun _ => rfl }

/-- Settles O43: each value is the one `State.reset` is given (R29). -/
theorem resetValues : Obligations.ResetValues :=
  ⟨rfl, rfl, rfl, rfl, rfl, rfl, rfl, rfl, rfl, rfl, rfl, rfl⟩

end Sys2Proof.Machine
end

section
/-!
The configuration, `first_fragment` and the key registers: ENC writes them when it performs a command, and no other turn
does (spec/10_state.md R16, R18, R23).
-/

namespace Sys2Proof.Machine

/-- The configuration, `first_fragment` and the key registers are the same. -/
def sameRegisters (s t : State) : Prop :=
  t.cfg = s.cfg ∧ t.firstFragment = s.firstFragment ∧ t.maskKey = s.maskKey ∧ t.maskKeyValid = s.maskKeyValid

/-- HOST writes the command port, the payload memory and its own list of actions, and nothing else (R24, R31). -/
theorem hostAct_writes {s t : State} (h : hostAct s = .next t) :
    ∃ port mem host, t = { s with port := port, mem := mem, host := host } := by
  rcases hostAct_cases h with rfl | ⟨c, rest, -, rfl⟩ | ⟨a, bs, rest, -, -, rfl⟩
  · exact ⟨_, _, _, rfl⟩
  · exact ⟨_, _, _, rfl⟩
  · exact ⟨_, _, _, rfl⟩

/-- A step leaves the registers, or is ENC's and performs a command. -/
theorem step_sameRegisters_or_performs {s t : State} (h : step s = .next t) :
    sameRegisters s t ∨
      (s.turn = .enc ∧ ∃ c i, s.port = some c ∧ decode (.command c) = .ok i ∧ performs s i ∧
        t = nextTurn (performed s i)) := by
  obtain ⟨u, rfl, hturn⟩ := step_cases h
  rcases hturn with ⟨-, hu⟩ | ⟨hs, henc⟩ | ⟨-, rfl⟩ | ⟨-, rfl⟩ | ⟨-, r, rfl⟩
  · obtain ⟨port, mem, host, rfl⟩ := hostAct_writes hu
    exact .inl ⟨rfl, rfl, rfl, rfl⟩
  · rcases henc with ⟨-, rfl⟩ | ⟨c, i, hc, hd, he⟩
    · exact .inl ⟨rfl, rfl, rfl, rfl⟩
    · rcases exec_command_cases (decode_command_isCommand hd) he with rfl | rfl | ⟨hp, rfl⟩
      · exact .inl ⟨rfl, rfl, rfl, rfl⟩
      · exact .inl ⟨rfl, rfl, rfl, rfl⟩
      · exact .inr ⟨hs, c, i, hc, hd, hp, rfl⟩
  · exact .inl (by simp [sameRegisters])
  · exact .inl (by simp [sameRegisters])
  · exact .inl ⟨rfl, rfl, rfl, rfl⟩

/-- A command after which `first_fragment` is another is a SEND, and its FIN is left there (R94, R95). -/
theorem send_of_fragmentAfter_ne {s : State} {i : Instr} (h : fragmentAfter s i ≠ s.firstFragment) :
    ∃ fin bin cmp msk ro cb len buf, i = .send fin bin cmp msk ro cb len buf ∧ fragmentAfter s i = fin := by
  cases i with
  | send => exact ⟨_, _, _, _, _, _, _, _, rfl, rfl⟩
  | _ => exact absurd rfl h

/-- Settles O46: a performed command leaves the configuration, and so does every other turn. -/
theorem configFixed : Obligations.ConfigFixed := by
  unfold Obligations.ConfigFixed
  intro s t h
  rcases step_sameRegisters_or_performs h with ⟨hc, -, -, -⟩ | ⟨-, c, i, -, -, -, rfl⟩
  · exact hc
  · exact performed_cfg s i

/-- Settles O47: a performed command leaves `fragmentAfter` there, which differs only after a SEND. -/
theorem fragmentWrittenBySend : Obligations.FragmentWrittenBySend := by
  unfold Obligations.FragmentWrittenBySend
  intro s t h hne
  rcases step_sameRegisters_or_performs h with ⟨-, hf, -, -⟩ | ⟨hs, c, i, hc, hd, -, rfl⟩
  · exact absurd hf hne
  · rw [nextTurn_firstFragment, performed_firstFragment] at hne
    obtain ⟨fin, bin, cmp, msk, ro, cb, len, buf, rfl, hfin⟩ := send_of_fragmentAfter_ne hne
    exact ⟨hs, c, fin, bin, cmp, msk, ro, cb, len, buf, hc, hd, by simpa using hfin, by simp⟩

/-- Settles O48: under either policy `MaskKey()` leaves a cached key. -/
theorem cachedKeyStays : Obligations.CachedKeyStays := by
  unfold Obligations.CachedKeyStays
  intro s t h hv
  rcases step_sameRegisters_or_performs h with ⟨-, -, hk, hv'⟩ | ⟨-, c, i, -, -, -, rfl⟩
  · exact ⟨hv'.trans hv, hk⟩
  · exact performed_cachedKey i hv

/-! ### The key register before a key is cached (R18) -/

/-- The state with another value in the key register. -/
def setKey (k : Key) (s : State) : State :=
  { s with maskKey := k }

@[simp] theorem setKey_maskKeyValid (k : Key) (s : State) : (setKey k s).maskKeyValid = s.maskKeyValid := rfl

section
variable {draw k : Key} {s : State}

theorem frameKey_setKey (hv : s.maskKeyValid = false) : frameKey draw (setKey k s) = frameKey draw s := by
  simp [frameKey, setKey, hv]

/-- `MaskKey()` leaves an unset register unset, or caches the draw whatever the register held. -/
theorem noteKey_setKey (hv : s.maskKeyValid = false) :
    ((noteKey draw s).maskKeyValid = false ∧ noteKey draw (setKey k s) = setKey k (noteKey draw s)) ∨
    noteKey draw (setKey k s) = noteKey draw s := by
  cases hc : s.cfg.maskKeyPolicy with
  | perFrame =>
    left
    rw [noteKey_perFrame hc, noteKey_perFrame (s := setKey k s) hc]
    exact ⟨hv, rfl⟩
  | cached =>
    right
    rw [noteKey_first hc hv, noteKey_first (s := setKey k s) hc hv]
    rfl

theorem sendFrame_setKey (opcode : BitVec 4) (p : List Byte) (wb : Option Nat) (ro fin rsv1 : Bool)
    (key : Option Key) (cb : Bool) (src : Range) (s : State) :
    sendFrame opcode p wb ro fin rsv1 key cb src (setKey k s) =
      setKey k (sendFrame opcode p wb ro fin rsv1 key cb src s) := by
  unfold sendFrame setKey
  dsimp only
  split <;> rfl

/-- `FrameAndSend` leaves an unset register unset, or does the same whatever the register held. -/
theorem runFrame_setKey (a : FrameArgs) (hv : s.maskKeyValid = false) :
    ((runFrame draw a s).maskKeyValid = false ∧ runFrame draw a (setKey k s) = setKey k (runFrame draw a s)) ∨
    runFrame draw a (setKey k s) = runFrame draw a s := by
  obtain ⟨opcode, p, wb, ro, fin, rsv1, masked, cb, src⟩ := a
  cases p with
  | nil => exact .inl ⟨hv, rfl⟩
  | cons b p =>
    cases masked with
    | false => exact .inl ⟨(sendFrame_maskKeyValid ..).trans hv, sendFrame_setKey ..⟩
    | true =>
      simp only [runFrame, frameAndSend, if_true, frameKey_setKey hv, sendFrame_maskKeyValid]
      rcases noteKey_setKey (draw := draw) (k := k) hv with ⟨hv', he⟩ | he
      · rw [he]
        exact .inl ⟨hv', sendFrame_setKey ..⟩
      · rw [he]
        exact .inr rfl

end

theorem frameArgs_setKey (k : Key) (s : State) (i : Instr) : frameArgs (setKey k s) i = frameArgs s i := by
  cases i <;> rfl

theorem fragmentAfter_setKey (k : Key) (s : State) (i : Instr) :
    fragmentAfter (setKey k s) i = fragmentAfter s i := by
  cases i <;> rfl

theorem verdict_setKey (k : Key) (s : State) (i : Instr) : verdict (setKey k s) i = verdict s i := by
  cases i <;> rfl

/-- A command's `FrameAndSend` leaves an unset register unset, or does the same whatever the register held. -/
theorem framed_setKey {s : State} (k : Key) (i : Instr) (hv : s.maskKeyValid = false) :
    ((framed s i).maskKeyValid = false ∧ framed (setKey k s) i = setKey k (framed s i)) ∨
    framed (setKey k s) i = framed s i := by
  unfold framed
  rw [frameArgs_setKey, fragmentAfter_setKey]
  exact runFrame_setKey (s := { s with firstFragment := fragmentAfter s i }) _ hv

/-- Settles O31: the verdict does not read the key register, and `FrameAndSend` reads it only where a key is cached. -/
theorem unsetKeyUnobserved : Obligations.UnsetKeyUnobserved := by
  unfold Obligations.UnsetKeyUnobserved
  intro s k i hv hi
  show ∃ t t', exec i s = .next t ∧ exec i (setKey k s) = .next t' ∧ setKey t.maskKey t' = t ∧
    (t.maskKeyValid = true → t' = t)
  rw [exec_command hi, exec_command hi, verdict_setKey]
  cases verdict s i with
  | stuck | hold | invalidCode => exact ⟨_, _, rfl, rfl, rfl, fun h => absurd h (by simp [hv])⟩
  | perform =>
    refine ⟨_, _, rfl, rfl, ?_⟩
    rcases framed_setKey k i hv with ⟨hv', he⟩ | he
    · rw [he]
      exact ⟨rfl, fun h => absurd h (by simp [hv'])⟩
    · rw [he]
      exact ⟨rfl, fun _ => rfl⟩

end Sys2Proof.Machine
end

section
/-!
The FIFO: when it is full, and what a step does to it and to the writes presented (spec/10_state.md R20, R21,
spec/20_memory.md R40, R41).
-/

namespace Sys2Proof.Machine

/-- The FIFO is full exactly when it holds `FIFO_DEPTH` jobs (R21). -/
theorem fifoFull_iff (s : State) :
    fifoFull s = true ↔ ∃ m, s.cfg.fifoDepth = .bounded m ∧ s.fifo.length = m + 1 := by
  unfold fifoFull
  cases s.fifo with
  | nil => simp
  | cons j js =>
    cases s.cfg.fifoDepth with
    | unbounded => simp
    | bounded m => simp [eq_comm (a := m)]

/-- In a full FIFO a command is stuck or held, unless its code is rejected (R21, R113). -/
theorem exec_of_fifoFull {s : State} {i : Instr} (hf : fifoFull s = true) (hi : isCommand i = true)
    (hc : ¬ codeRejected i) : exec i s = .next s := by
  rw [exec_command hi]
  cases hv : verdict s i with
  | stuck | hold => rfl
  | invalidCode => exact absurd (codeRejected_of_verdict hv) hc
  | perform =>
    have hroom := fifoFull_of_performs ((verdict_perform_iff hi s).mp hv)
    rw [hf] at hroom
    cases hroom

/-- Settles O20: no command is performed while the FIFO is full, and only a rejected code is answered. -/
theorem holdWhenFull : Obligations.HoldWhenFull := by
  unfold Obligations.HoldWhenFull
  intro s
  refine ⟨fun m hd hl => ?_, fifoFull_iff s⟩
  have hf : fifoFull s = true := (fifoFull_iff s).mpr ⟨m, hd, hl⟩
  refine ⟨?send, ?ping, ?pong, ?close⟩
  case send | ping | pong =>
    intros
    exact exec_of_fifoFull hf rfl (by simp [codeRejected])
  case close =>
    intro msk cb code len buf hcode
    refine exec_of_fifoFull hf rfl ?_
    rintro ⟨_, _, c, _, _, h⟩
    injection h with _ _ h
    exact hcode c h

/-- A command queues one job at the tail or none, and presents no write. -/
theorem exec_command_queue {i : Instr} {s t : State} (hi : isCommand i = true) (h : exec i s = .next t) :
    (t.fifo = s.fifo ∨ ∃ j, t.fifo = s.fifo ++ [j]) ∧ t.writes = s.writes := by
  rcases exec_command_cases hi h with rfl | rfl | ⟨-, rfl⟩
  · exact ⟨.inl rfl, rfl⟩
  · exact ⟨.inl rfl, rfl⟩
  · exact ⟨.inr ⟨_, performed_fifo s i⟩, performed_writes s i⟩

/-- Settles O50: ENC queues at the tail, TRANSPORT's answer pops the head, and DRAIN alone presents a write. -/
theorem queueOrder : Obligations.QueueOrder := by
  unfold Obligations.QueueOrder
  intro s t h
  obtain ⟨u, rfl, hturn⟩ := step_cases h
  rcases hturn with ⟨-, hu⟩ | ⟨-, henc⟩ | ⟨-, rfl⟩ | ⟨-, rfl⟩ | ⟨-, r, rfl⟩
  · obtain ⟨port, mem, host, rfl⟩ := hostAct_writes hu
    exact ⟨.inl rfl, .inl rfl⟩
  · rcases henc with ⟨-, rfl⟩ | ⟨c, i, -, hd, he⟩
    · exact ⟨.inl rfl, .inl rfl⟩
    · obtain ⟨hf, hw⟩ := exec_command_queue (decode_command_isCommand hd) he
      exact ⟨hf.imp_right .inl, .inl hw⟩
  · refine ⟨.inl (drainIssue_fifo s), ?_⟩
    rcases drainIssue_cases s with he | ⟨j, js, w, hb, hq, hw, he⟩
    · exact .inl (by rw [he]; rfl)
    · exact .inr ⟨j, js, w, hb, hq, writeAt_eq j.writes _ ▸ hw, by rw [he]; rfl, by rw [he]; rfl⟩
  · exact ⟨(drainAnswer_fifo _ s).imp_right .inr, .inl (drainAnswer_writes _ s)⟩
  · exact ⟨.inl rfl, .inl rfl⟩

end Sys2Proof.Machine
end

section
/-!
HOST's turn, action by action (spec/10_state.md R24, spec/20_memory.md R31, R37, spec/70_reset_and_hazards.md R129).
-/

namespace Sys2Proof.Machine

section
variable {s : State} {rest : List HostAction} {c : Command} {a : Nat} {bs : List Byte}

theorem hostAct_idle (h : s.host = []) : hostAct s = .next s := by
  simp only [hostAct, h]

theorem hostAct_present_free (h : s.host = .present c :: rest) (hp : s.port = none) :
    hostAct s = .next { s with port := some c, host := rest } := by
  simp only [hostAct, h, hp]

theorem hostAct_present_busy (h : s.host = .present c :: rest) (hp : s.port ≠ none) : hostAct s = .next s := by
  obtain ⟨d, hd⟩ := Option.ne_none_iff_exists'.mp hp
  simp only [hostAct, h, hd]

theorem hostAct_store_outside (h : s.host = .store a bs :: rest) (ha : 2 ^ s.cfg.addrW < a + bs.length) :
    hostAct s = .fault .hostStoreOutside := by
  simp only [hostAct, h, ha, if_true]

theorem hostAct_store_held (h : s.host = .store a bs :: rest) (ha : a + bs.length ≤ 2 ^ s.cfg.addrW)
    (hx : ∃ x, a ≤ x ∧ x < a + bs.length ∧ heldByte s x) : hostAct s = .fault .hostStoreInFlight := by
  have hany := (any_overlaps_inFlight_iff s ⟨a, bs.length⟩).mpr hx
  simp only [hostAct, h, Nat.not_lt.mpr ha, if_false, hany, if_true]

theorem hostAct_store_done (h : s.host = .store a bs :: rest) (ha : a + bs.length ≤ 2 ^ s.cfg.addrW)
    (hx : ∀ x, a ≤ x → x < a + bs.length → ¬ heldByte s x) :
    hostAct s = .next { s with mem := memWrite s.mem a bs, host := rest } := by
  have hany : (inFlight s).any (overlaps ⟨a, bs.length⟩) = false := by
    rw [← Bool.not_eq_true, any_overlaps_inFlight_iff]
    rintro ⟨x, h1, h2, hheld⟩
    exact hx x h1 h2 hheld
  simp only [hostAct, h, Nat.not_lt.mpr ha, hany, if_false, Bool.false_eq_true]

theorem step_host (hs : s.turn = .host) : step s = advance (hostAct s) := by
  simp only [step, agentTurn, hs]

end

/-- Settles O51: HOST's list has no action, or a command to present, or bytes to store, and a store is done, held off or
outside. -/
theorem hostActs : Obligations.HostActs := by
  unfold Obligations.HostActs
  intro s rest
  refine ⟨hostAct_idle, fun c h => ⟨hostAct_present_free h, hostAct_present_busy h⟩,
    fun a bs h ha => ⟨hostAct_store_done h ha, hostAct_store_held h ha⟩, fun a bs h => hostAct_store_outside h,
    fun hs => ?_⟩
  rw [step_host hs]
  constructor
  · intro t ht
    rw [ht]
    rfl
  · intro f hf
    rw [hf]
    rfl

end Sys2Proof.Machine
end

section
/-!
The canonical form of the payload memory: what is listed is what reads as another byte than an unlisted address, so equal
readings are equal lists (spec/20_memory.md R31).
-/

namespace Sys2Proof.Machine

theorem sortedFrom_cons {lo k : Nat} {v : Byte} {m : Memory} :
    sortedFrom lo ((k, v) :: m) = true ↔ lo ≤ k ∧ v ≠ unlistedByte ∧ sortedFrom (k + 1) m = true := by
  simp [sortedFrom, and_assoc]

/-- The first listed byte reads as listed. -/
theorem readByte_head_ne_unlisted {lo k : Nat} {v : Byte} {m : Memory} (h : sortedFrom lo ((k, v) :: m) = true) :
    readByte ((k, v) :: m) k ≠ unlistedByte := by
  obtain ⟨-, hv, -⟩ := sortedFrom_cons.mp h
  simpa [readByte] using hv

/-- An address that reads as listed is no lower than the first listed one. -/
theorem head_le_of_readByte_ne_unlisted {lo k a : Nat} {v : Byte} {m : Memory}
    (h : sortedFrom lo ((k, v) :: m) = true) (ha : readByte ((k, v) :: m) a ≠ unlistedByte) : k ≤ a := by
  obtain ⟨-, hv, hm⟩ := sortedFrom_cons.mp h
  by_contra hlt
  exact ha (readByte_below (sortedFrom_cons.mpr ⟨le_refl k, hv, hm⟩) (by omega))

/-- Canonical lists with the same first cell that read alike have tails that read alike. -/
theorem readByte_tail_eq {k : Nat} {v : Byte} {m m' : Memory} (hm : sortedFrom (k + 1) m = true)
    (hm' : sortedFrom (k + 1) m' = true) (h : ∀ a, readByte ((k, v) :: m) a = readByte ((k, v) :: m') a) (a : Nat) :
    readByte m a = readByte m' a := by
  by_cases hka : k = a
  · rw [readByte_below hm (by omega), readByte_below hm' (by omega)]
  · simpa [readByte, hka] using h a

theorem eq_of_readByte_eq {lo lo' : Nat} {m m' : Memory} (hm : sortedFrom lo m = true)
    (hm' : sortedFrom lo' m' = true) (h : ∀ a, readByte m a = readByte m' a) : m = m' := by
  induction m generalizing lo lo' m' with
  | nil =>
    cases m' with
    | nil => rfl
    | cons c' m' => exact absurd (h c'.1).symm (readByte_head_ne_unlisted hm')
  | cons c m ih =>
    obtain ⟨k, v⟩ := c
    cases m' with
    | nil => exact absurd (h k) (readByte_head_ne_unlisted hm)
    | cons c' m' =>
      obtain ⟨k', v'⟩ := c'
      have hle : k' ≤ k := head_le_of_readByte_ne_unlisted hm' (h k ▸ readByte_head_ne_unlisted hm)
      have hge : k ≤ k' := head_le_of_readByte_ne_unlisted hm (h k' ▸ readByte_head_ne_unlisted hm')
      obtain rfl : k = k' := Nat.le_antisymm hge hle
      obtain rfl : v = v' := by simpa [readByte] using h k
      obtain ⟨-, -, ht⟩ := sortedFrom_cons.mp hm
      obtain ⟨-, -, ht'⟩ := sortedFrom_cons.mp hm'
      rw [ih ht ht' (readByte_tail_eq ht ht' h)]

/-- Settles O52: each list's first address is listed in the other, so the first cells are the same, and so on. -/
theorem memoryCanonical : Obligations.MemoryCanonical := by
  unfold Obligations.MemoryCanonical
  intro m m' hm hm' h
  exact eq_of_readByte_eq hm hm' h

end Sys2Proof.Machine
end

section
/-!
Range admission: a command outside the memory is stuck, and one inside it is performed when the FIFO has room
(spec/20_memory.md R32, spec/41_frame_and_send.md R76, spec/42_message_ops.md R100).
-/

namespace Sys2Proof.Machine

theorem exec_of_stuck {s : State} {i : Instr} (hi : isCommand i = true) (hv : verdict s i = .stuck) :
    exec i s = .next s := by
  rw [exec_command hi, hv]
  rfl

/-- A command that may be performed is performed and answered `OK` (R76 step 5). -/
theorem exec_of_performs {s : State} {i : Instr} (hi : isCommand i = true) (hp : performs s i) :
    exec i s = .next (performed s i) := by
  rw [exec_command hi, (verdict_perform_iff hi s).mpr hp]
  rfl

/-- A performed command leaves the port and is answered `OK` (R24, R25). -/
theorem exec_answersOk {s : State} {i : Instr} (hi : isCommand i = true) (hp : performs s i) :
    ∃ t, exec i s = .next t ∧ t.port = none ∧ t.responses = s.responses ++ [.ok] :=
  ⟨_, exec_of_performs hi hp, performed_port s i, performed_responses s i⟩

section
variable {s : State} {len : Len} {buf : Nat}

theorem rangeAdmitted_eq_false (hlen : len ≠ 0#64) (hbuf : 2 ^ s.cfg.addrW < buf + len.toNat) :
    rangeAdmitted s len buf = false := by
  rw [← Bool.not_eq_true, rangeAdmitted_iff]
  rintro (h | h)
  · exact hlen h
  · omega

theorem acceptance_stuck (h : rangeAdmitted s len buf = false) : acceptance len buf s = .stuck := by
  simp [acceptance, h]

theorem closeAcceptance_stuck_of_range (code : CloseCode) (h : rangeAdmitted s len buf = false) :
    closeAcceptance code len buf s = .stuck := by
  simp [closeAcceptance, h]

theorem closeAcceptance_stuck_of_long (code : CloseCode) (h : closeLenFits len = false) :
    closeAcceptance code len buf s = .stuck := by
  simp [closeAcceptance, h]

end

/-- Settles O21: by the verdict of each command's acceptance. -/
theorem rangeAdmission : Obligations.RangeAdmission := by
  unfold Obligations.RangeAdmission
  intro s len buf
  refine ⟨?outside, ?inside, ?long⟩
  case outside =>
    rintro ⟨hlen, hbuf⟩
    have hr := rangeAdmitted_eq_false hlen hbuf
    exact ⟨fun _ _ _ _ _ _ => exec_of_stuck rfl (acceptance_stuck hr),
      fun _ _ _ => exec_of_stuck rfl (acceptance_stuck hr), fun _ _ _ => exec_of_stuck rfl (acceptance_stuck hr),
      fun _ _ code => exec_of_stuck rfl (closeAcceptance_stuck_of_range code hr)⟩
  case inside =>
    intro hr hf
    have ha : canAccept s len buf := ⟨hr, hf⟩
    exact ⟨fun _ _ _ _ _ _ => exec_answersOk rfl ha, fun _ _ _ => exec_answersOk rfl ha,
      fun _ _ _ => exec_answersOk rfl ha, fun _ _ _ hfit hcode => exec_answersOk rfl ⟨hfit, ha, hcode⟩⟩
  case long =>
    intro hlong _ _ code
    have hfit : closeLenFits len = false := by
      rw [← Bool.not_eq_true, closeLenFits_iff]
      omega
    exact exec_of_stuck rfl (closeAcceptance_stuck_of_long code hfit)

end Sys2Proof.Machine
end

section
/-!
The writers of the payload memory: HOST's stores, and a performed command on the split masked path, which masks the
caller's buffer in place (spec/20_memory.md R38, spec/41_frame_and_send.md R83).
-/

namespace Sys2Proof.Machine

/-! ### A command's operands, as the statements name them -/

section
variable {i : Instr} {buf : Nat}

theorem isCommand_of_mutableBuffer (h : mutableBuffer i = some buf) : isCommand i = true := by
  cases i with
  | send | ping | pong => rfl
  | _ => cases h

/-- A buffer is mutable exactly when `FrameAndSend` may write it back: it is a write-back operand, and RO = 0. -/
theorem mutableBuffer_iff (s : State) :
    mutableBuffer i = some buf ↔ (frameArgs s i).wb = some buf ∧ (frameArgs s i).ro = false := by
  cases i with
  | send _ _ _ _ ro | ping _ ro | pong _ ro => cases ro <;> simp [mutableBuffer, frameArgs]
  | _ => simp [mutableBuffer, frameArgs]

@[simp] theorem frameArgs_masked (s : State) (i : Instr) : (frameArgs s i).masked = isMasked i := by
  cases i <;> rfl

@[simp] theorem frameArgs_payload_length (s : State) (i : Instr) :
    (frameArgs s i).payload.length = payloadLength i := by
  cases i with
  | send | ping | pong => exact payloadAt_length ..
  | close => simp [frameArgs, payloadLength, closePayload_length]
  | _ => rfl

theorem frameArgs_payload_of_mutableBuffer (s : State) (h : mutableBuffer i = some buf) :
    (frameArgs s i).payload = memRead s.mem buf (payloadLength i) := by
  cases i with
  | send _ _ _ _ ro | ping _ ro | pong _ ro =>
    cases ro <;> cases h
    rfl
  | _ => cases h

end

/-- The key of a frame that is written back: it is masked and not empty (R71, R78). -/
theorem nextKey_of_writesBack {s : State} {masked ro : Bool} {n : Nat} (h : writesBack s masked ro n) :
    nextKey s true n = some (frameKey (Config.entropy s.draws) s) := by
  obtain ⟨-, -, hn, -⟩ := h
  simp [nextKey, hn]

/-! ### The memory after a performed command -/

/-- A command masks its caller's buffer in place (R38, R83). -/
def masksInPlace (s : State) (i : Instr) (buf : Nat) : Prop :=
  mutableBuffer i = some buf ∧ writesBack s (isMasked i) false (payloadLength i)

/-- The guard of the write-back of `FrameAndSend`, in the terms of the statements. -/
theorem masksInPlace_iff (s : State) (i : Instr) (buf : Nat) :
    masksInPlace s i buf ↔
      (frameArgs s i).wb = some buf ∧ (frameArgs s i).masked = true ∧ (frameArgs s i).ro = false ∧
        (frameArgs s i).payload ≠ [] ∧ s.cfg.mergeThreshold ≤ (frameArgs s i).payload.length := by
  rw [masksInPlace, mutableBuffer_iff s, writesBack, ← List.length_pos_iff, frameArgs_payload_length,
    frameArgs_masked, Nat.pos_iff_ne_zero]
  tauto

theorem performed_mem_of_masksInPlace {s : State} {i : Instr} {buf : Nat} (h : masksInPlace s i buf) :
    (performed s i).mem =
      memWrite s.mem buf (mask (memRead s.mem buf (payloadLength i)) (frameKey (Config.entropy s.draws) s)) := by
  obtain ⟨hwb, hguard⟩ := (masksInPlace_iff s i buf).mp h
  have hm : (performed s i).mem = _ := frameAndSend_mem ..
  rw [if_pos hguard, hwb, frameArgs_payload_of_mutableBuffer s h.1] at hm
  exact hm

theorem performed_mem_of_not_masksInPlace {s : State} {i : Instr} (h : ∀ buf, ¬ masksInPlace s i buf) :
    (performed s i).mem = s.mem := by
  have hm : (performed s i).mem = _ := frameAndSend_mem ..
  rw [hm]
  split
  · next hguard =>
    cases hwb : (frameArgs s i).wb with
    | none => rfl
    | some buf => exact absurd ((masksInPlace_iff s i buf).mpr ⟨hwb, hguard⟩) (h buf)
  · rfl

/-- `MemWrite` of a masked range: byte `x` of it is `p[x] XOR k[x mod 4]` (R66). -/
theorem readByte_memWrite_mask {m : Memory} (h : Memory.wf m = true) (buf : Nat) (k : Key) {n x : Nat} (hx : x < n) :
    readByte (memWrite m buf (mask (memRead m buf n) k)) (buf + x) = readByte m (buf + x) ^^^ keyLane k x := by
  rw [readByte_memWrite h, if_pos (Nat.le_add_right buf x), Nat.add_sub_cancel_left, mask_getElem?,
    memRead_getElem? _ _ _ _ hx]
  rfl

/-! ### The obligations -/

/-- A SEND, PING or PONG with MSK = 1 and RO = 0 on the split path completes, and its buffer is masked in place. -/
theorem exec_masksInPlace {s : State} {i : Instr} {buf : Nat} (hwf : Memory.wf s.mem = true) (hp : performs s i)
    (h : masksInPlace s i buf) :
    ∃ t k, exec i s = .next t ∧ nextKey s true (payloadLength i) = some k ∧
      ∀ x kb, x < payloadLength i → (keyBytes k)[x % 4]? = some kb →
        readByte t.mem (buf + x) = readByte s.mem (buf + x) ^^^ kb := by
  obtain ⟨hb, hw⟩ := h
  refine ⟨_, _, exec_of_performs (isCommand_of_mutableBuffer hb) hp, nextKey_of_writesBack hw, ?_⟩
  intro x kb hx hkb
  rw [keyBytes_getElem?] at hkb
  cases hkb
  rw [performed_mem_of_masksInPlace ⟨hb, hw⟩]
  exact readByte_memWrite_mask hwf buf _ hx

/-- Settles O26: the three commands are the ones that mask a buffer in place. -/
theorem inPlaceMasking : Obligations.InPlaceMasking := by
  unfold Obligations.InPlaceMasking
  intro s len buf i hi hwf ha hw
  rcases hi with ⟨_, _, _, _, rfl⟩ | ⟨_, rfl⟩ | ⟨_, rfl⟩
  · exact exec_masksInPlace hwf ha ⟨rfl, hw⟩
  · exact exec_masksInPlace hwf ha ⟨rfl, hw⟩
  · exact exec_masksInPlace hwf ha ⟨rfl, hw⟩

/-- A command leaves the memory, or is performed and masks its caller's buffer in place. -/
theorem exec_command_mem {s t : State} {i : Instr} (hi : isCommand i = true) (h : exec i s = .next t) :
    t.mem = s.mem ∨ ∃ buf, masksInPlace s i buf ∧ t = performed s i := by
  rcases exec_command_cases hi h with rfl | rfl | ⟨-, rfl⟩
  · exact .inl rfl
  · exact .inl rfl
  · by_cases hm : ∃ buf, masksInPlace s i buf
    · obtain ⟨buf, hm⟩ := hm
      exact .inr ⟨buf, hm, rfl⟩
    · exact .inl (performed_mem_of_not_masksInPlace (not_exists.mp hm))

/-- Settles O49: HOST stores, ENC masks in place, and no other turn touches the memory. -/
theorem memoryWriters : Obligations.MemoryWriters := by
  unfold Obligations.MemoryWriters
  intro s t h
  obtain ⟨u, rfl, hturn⟩ := step_cases h
  rw [nextTurn_mem]
  rcases hturn with ⟨hs, hu⟩ | ⟨hs, henc⟩ | ⟨-, rfl⟩ | ⟨-, rfl⟩ | ⟨-, r, rfl⟩
  · rcases hostAct_cases hu with rfl | ⟨c, rest, -, rfl⟩ | ⟨a, bs, rest, hh, -, rfl⟩
    · exact .inl rfl
    · exact .inl rfl
    · exact .inr (.inl ⟨hs, a, bs, rest, hh, rfl⟩)
  · rcases henc with ⟨-, rfl⟩ | ⟨c, i, hc, hd, he⟩
    · exact .inl rfl
    · rcases exec_command_mem (decode_command_isCommand hd) he with hm | ⟨buf, ⟨hb, hw⟩, rfl⟩
      · exact .inl hm
      · exact .inr (.inr ⟨hs, c, i, buf, _, hc, hd, hb, hw, nextKey_of_writesBack hw,
          performed_mem_of_masksInPlace ⟨hb, hw⟩⟩)
  · exact .inl (drainIssue_mem s)
  · exact .inl (drainAnswer_mem _ s)
  · exact .inl rfl

end Sys2Proof.Machine
end

section
/-!
The header forms decoded and encoded: what a byte, a key field or a length decodes to is what it is the encoding of, and
the other way round (spec/30_encoding.md R53 to R58).
-/

namespace Sys2Proof.Machine

/-! ### Bytes put together and taken apart again (R34) -/

theorem extractLsb'_append_byte {w n : Nat} (x : BitVec w) (b : Byte) (s : Nat) :
    (x ++ b).extractLsb' (s + 8) n = x.extractLsb' s n :=
  BitVec.extractLsb'_append_eq_of_le (by omega)

theorem extractLsb'_append_byte_low {w : Nat} (x : BitVec w) (b : Byte) : (x ++ b).extractLsb' 0 8 = b :=
  BitVec.extractLsb'_append_eq_right

theorem be16_append (b0 b1 : Byte) : be16 (b0 ++ b1) = [b0, b1] := by
  simp only [be16, extractLsb'_append_byte, extractLsb'_append_byte_low, BitVec.extractLsb'_eq_self]

theorem be64_append (b0 b1 b2 b3 b4 b5 b6 b7 : Byte) :
    be64 (b0 ++ b1 ++ b2 ++ b3 ++ b4 ++ b5 ++ b6 ++ b7) = [b0, b1, b2, b3, b4, b5, b6, b7] := by
  simp only [be64, extractLsb'_append_byte, extractLsb'_append_byte_low, BitVec.extractLsb'_eq_self]

theorem keyBytes_keyOfBytes (k0 k1 k2 k3 : Byte) : keyBytes (keyOfBytes k0 k1 k2 k3) = [k0, k1, k2, k3] := by
  simp only [keyBytes, keyOfBytes, extractLsb'_append_byte, extractLsb'_append_byte_low, BitVec.extractLsb'_eq_self]

/-- The key that `takeKey` takes is there iff MASK = 1, and its field is exactly the bytes taken (R57). -/
theorem takeKey_eq_ok {masked : Bool} {bs rest : List Byte} {key : Option Key}
    (h : takeKey masked bs = .ok (key, rest)) : key.isSome = masked ∧ bs = keyField key ++ rest := by
  unfold takeKey at h
  split at h
  · cases h
    exact ⟨rfl, rfl⟩
  · cases h
    exact ⟨rfl, by rw [keyField, keyBytes_keyOfBytes]; rfl⟩
  · cases h

/-! ### Byte 0 (R54) -/

/-- A byte with RSV2 and RSV3 zero is made of its FIN, RSV1 and opcode. -/
theorem headerByte0_of_byte {b : Byte} (h : b.extractLsb' 4 2 = 0#2) :
    headerByte0 (b.getLsbD 7) (b.getLsbD 6) (b.extractLsb' 0 4) = b := by
  revert b; decide

/-- A byte 0 that decodes is the encoding of what it decodes to. -/
theorem encode_of_decodeHeader0 {b : Byte} {i : Instr} (h : decodeHeader0 b = .ok i) : encode i = .header0 b := by
  unfold decodeHeader0 at h
  split at h
  · cases h
  · next hrsv =>
    have hb := headerByte0_of_byte (by simpa using hrsv)
    split_ifs at h with hop hop hop hclose hping hpong <;> cases h
    · exact congrArg Words.header0 (hop ▸ hb)
    · exact congrArg Words.header0 (hop ▸ hb)
    · exact congrArg Words.header0 (hop ▸ hb)
    · exact congrArg Words.header0 hclose.symm
    · exact congrArg Words.header0 hping.symm
    · exact congrArg Words.header0 hpong.symm

/-- A byte-0 form takes one byte. -/
theorem headerSize_of_encode_header0 {b : Byte} {i : Instr} (h : encode i = .header0 b) : headerSize i = 1 := by
  cases i with
  | frameContinuation | frameText | frameBinary | frameClose | framePing | framePong => rfl
  | _ => cases h

/-- The encoding of a byte-0 form decodes to it. -/
theorem decodeHeader0_of_encode {b : Byte} {i : Instr} (h : encode i = .header0 b) : decodeHeader0 b = .ok i := by
  cases i with
  | frameContinuation fin rsv1 | frameText fin rsv1 | frameBinary fin rsv1 =>
    cases h
    cases fin <;> cases rsv1 <;> rfl
  | frameClose | framePing | framePong => cases h; rfl
  | _ => cases h

/-! ### A header from byte 1 on (R55 to R57) -/

theorem headerByte1_of_byte (b : Byte) : headerByte1 (b.getLsbD 7) (b.extractLsb' 0 7) = b := by
  revert b; decide

theorem headerSize_of_encode {i : Instr} {ws : List Byte} (h : encode i = .header1 ws) : headerSize i = ws.length := by
  cases i with
  | lenL7 | lenL16 | lenL64 =>
    cases h
    simp only [headerSize, List.cons_append, List.length_cons, List.length_append, be16_length, be64_length]
    omega
  | _ => cases h

/-- The encoding of a length form decodes to it, whatever bytes follow. -/
theorem decodeHeader1_of_encode {i : Instr} {ws : List Byte} (hwf : i.wf = true) (h : encode i = .header1 ws)
    (rest : List Byte) : decodeHeader1 (ws ++ rest) = .ok (i, rest) := by
  cases i with
  | lenL7 len7 key =>
    cases h
    have hlt : len7.toNat < 126 := of_decide_eq_true hwf
    have h16 : len7 ≠ 126#7 := by rintro rfl; exact absurd hlt (by decide)
    have h64 : len7 ≠ 127#7 := by rintro rfl; exact absurd hlt (by decide)
    simp only [decodeHeader1, List.cons_append, headerByte1_len7, headerByte1_masked, takeKey_keyField, h16, h64,
      if_false]
  | lenL16 n key =>
    cases h
    simp only [decodeHeader1, be16, List.cons_append, List.nil_append, headerByte1_len7, headerByte1_masked,
      takeKey_keyField, if_true, be16_join]
  | lenL64 n key =>
    cases h
    have hm : (127#7 : BitVec 7) ≠ 126#7 := by decide
    simp only [decodeHeader1, be64, List.cons_append, List.nil_append, headerByte1_len7, headerByte1_masked,
      takeKey_keyField, if_true, if_false, hm, be64_join]
  | _ => cases h

/-- A header that decodes is the encoding of a well-formed length form, and the bytes after it. -/
theorem encode_of_decodeHeader1 {bs rest : List Byte} {i : Instr} (h : decodeHeader1 bs = .ok (i, rest)) :
    i.wf = true ∧ ∃ ws, encode i = .header1 ws ∧ bs = ws ++ rest := by
  cases bs with
  | nil => cases h
  | cons b bs =>
    have hb := headerByte1_of_byte b
    simp only [decodeHeader1] at h
    split at h
    · next hlen =>
      split at h
      · next b0 b1 bs =>
        split at h
        · next key rest' hk =>
          obtain ⟨hm, rfl⟩ := takeKey_eq_ok hk
          cases h
          rw [← hm, hlen] at hb
          exact ⟨rfl, _, rfl, by rw [be16_append, hb]; rfl⟩
        · cases h
      · cases h
    · next h16 =>
      split at h
      · next hlen =>
        split at h
        · next b0 b1 b2 b3 b4 b5 b6 b7 bs =>
          split at h
          · next key rest' hk =>
            obtain ⟨hm, rfl⟩ := takeKey_eq_ok hk
            cases h
            rw [← hm, hlen] at hb
            exact ⟨rfl, _, rfl, by rw [be64_append, hb]; rfl⟩
          · cases h
        · cases h
      · next h64 =>
        split at h
        · next key rest' hk =>
          obtain ⟨hm, rfl⟩ := takeKey_eq_ok hk
          cases h
          rw [← hm] at hb
          refine ⟨decide_eq_true ?_, _, rfl, by rw [hb]; rfl⟩
          bv_omega
        · cases h

/-- Settles O2: a byte 0 is made of its fields, and a header from byte 1 on of byte 1, the extended length and the
key. -/
theorem encodeDecodeHeader : Obligations.EncodeDecodeHeader := by
  unfold Obligations.EncodeDecodeHeader
  refine ⟨fun b i h => ?byte0, fun bs rest i h => ?byte1⟩
  case byte0 =>
    have he := encode_of_decodeHeader0 h
    exact ⟨he, headerSize_of_encode_header0 he⟩
  case byte1 =>
    obtain ⟨-, ws, he, hbs⟩ := encode_of_decodeHeader1 h
    exact ⟨ws, he, hbs, (headerSize_of_encode he).symm⟩

end Sys2Proof.Machine
end

section
/-!
The command word decoded and encoded, and the decoder as a whole (spec/30_encoding.md R46 to R52, R61, R62).
-/

namespace Sys2Proof.Machine

section
variable {x y : BitVec 32} {s n i : Nat}

/-- Two words that agree on a field agree on each of its bits. -/
theorem getLsbD_eq_of_extractLsb'_eq (h : x.extractLsb' s n = y.extractLsb' s n) (hs : s ≤ i) (hn : i < s + n) :
    x.getLsbD i = y.getLsbD i := by
  have hb := congrArg (BitVec.getLsbD · (i - s)) h
  have hlt : i - s < n := by omega
  simpa only [BitVec.getLsbD_extractLsb', hlt, decide_true, Bool.true_and, Nat.add_sub_cancel' hs] using hb

end

/-- OP is its two bits (R47). -/
theorem getLsbD_op {cmd : BitVec 32} {op : BitVec 2} (h : cmd.extractLsb' 0 2 = op) :
    cmd.getLsbD 1 = op.getLsbD 1 ∧ cmd.getLsbD 0 = op.getLsbD 0 := by
  subst h
  exact ⟨by simp, by simp⟩

/-! ### The decoder, an equation for each operation (R47) -/

theorem decodeCommand_reserved {c : Command} (h : c.cmd.extractLsb' 10 6 ≠ 0#6) :
    decodeCommand c = .error .reservedBits := by
  simp [decodeCommand, reservedSet, h]

section
variable {c : Command} (hr : c.cmd.extractLsb' 10 6 = 0#6)
include hr

theorem decodeCommand_send (hop : c.cmd.extractLsb' 0 2 = 0#2) :
    decodeCommand c = .ok (.send (c.cmd.getLsbD 2) (c.cmd.getLsbD 3) (c.cmd.getLsbD 4) (c.cmd.getLsbD 5)
      (c.cmd.getLsbD 6) (c.cmd.getLsbD 7) c.len c.buf) := by
  obtain ⟨h1, h0⟩ := getLsbD_op hop
  rw [decodeCommand, if_neg (by simp [reservedSet, hr]), h1, h0]
  rfl

theorem decodeCommand_ping (hop : c.cmd.extractLsb' 0 2 = 1#2) :
    decodeCommand c = .ok (.ping (c.cmd.getLsbD 5) (c.cmd.getLsbD 6) (c.cmd.getLsbD 7) c.len c.buf) := by
  obtain ⟨h1, h0⟩ := getLsbD_op hop
  rw [decodeCommand, if_neg (by simp [reservedSet, hr]), h1, h0]
  rfl

theorem decodeCommand_pong (hop : c.cmd.extractLsb' 0 2 = 2#2) :
    decodeCommand c = .ok (.pong (c.cmd.getLsbD 5) (c.cmd.getLsbD 6) (c.cmd.getLsbD 7) c.len c.buf) := by
  obtain ⟨h1, h0⟩ := getLsbD_op hop
  rw [decodeCommand, if_neg (by simp [reservedSet, hr]), h1, h0]
  rfl

theorem decodeCommand_close (hop : c.cmd.extractLsb' 0 2 = 3#2) :
    decodeCommand c = .ok (.close (c.cmd.getLsbD 5) (c.cmd.getLsbD 7) (decodeCloseCode c.cmd) c.len c.buf) := by
  obtain ⟨h1, h0⟩ := getLsbD_op hop
  rw [decodeCommand, if_neg (by simp [reservedSet, hr]), h1, h0]
  rfl

/-- There is no illegal OP: every word without a reserved bit decodes to a command (R47, R61). -/
theorem decodeCommand_isCommand : ∃ i, decodeCommand c = .ok i ∧ isCommand i = true := by
  have hop : ∀ op : BitVec 2, op = 0#2 ∨ op = 1#2 ∨ op = 2#2 ∨ op = 3#2 := by decide
  rcases hop (c.cmd.extractLsb' 0 2) with h | h | h | h
  · exact ⟨_, decodeCommand_send hr h, rfl⟩
  · exact ⟨_, decodeCommand_ping hr h, rfl⟩
  · exact ⟨_, decodeCommand_pong hr h, rfl⟩
  · exact ⟨_, decodeCommand_close hr h, rfl⟩

end

/-! ### The encoder, bit by bit -/

theorem getLsbD_bitAt (b : Bool) {s : Nat} (hs : s < 32) (i : Nat) :
    (bitAt b s).getLsbD i = (decide (s = i) && b) := by
  cases b with
  | false => simp [bitAt]
  | true =>
    rw [bitAt, if_pos rfl, ← BitVec.twoPow_eq, BitVec.getLsbD_twoPow]
    simp [hs]

@[simp] theorem getElem_bitAt (b : Bool) {s : Nat} (hs : s < 32) (i : Nat) (hi : i < 32) :
    (bitAt b s)[i] = (decide (s = i) && b) :=
  getLsbD_bitAt b hs i

/-- A flag below CODE's place is no bit of CODE. -/
theorem extractLsb'_bitAt (b : Bool) {s : Nat} (hs : s < 16) : (bitAt b s).extractLsb' 16 16 = 0#16 := by
  refine BitVec.eq_of_getLsbD_eq fun i hi => ?_
  have hne : s ≠ 16 + i := by omega
  simp [BitVec.getLsbD_extractLsb', getLsbD_bitAt b (by omega : s < 32), hne]

/-- CODE at its place has no bit below it, and is there whole. -/
theorem extractLsb'_code (code : BitVec 16) : (code.setWidth 32 <<< 16).extractLsb' 16 16 = code := by
  refine BitVec.eq_of_getLsbD_eq fun i hi => ?_
  have h32 : 16 + i < 32 := by omega
  simp [hi, h32]

theorem encodeCloseCode_low (code : CloseCode) {i : Nat} (hi : i < 8) : (encodeCloseCode code)[i] = false := by
  have h8 : 8 ≠ i := by omega
  have h9 : 9 ≠ i := by omega
  have h16 : i < 16 := by omega
  cases code with
  | absent => simp [encodeCloseCode]
  | given code valid => simp [encodeCloseCode, h8, h9, h16]

/-- CP, CV and CODE are read back from the word of a CLOSE (R50). -/
theorem decodeCloseCode_encode (msk cb : Bool) (code : CloseCode) :
    decodeCloseCode (3#32 ||| bitAt msk 5 ||| bitAt cb 7 ||| encodeCloseCode code) = code := by
  cases code with
  | absent => simp [decodeCloseCode, encodeCloseCode]
  | given code valid =>
    have hop : (3#32).extractLsb' 16 16 = 0#16 := by decide
    simp [decodeCloseCode, encodeCloseCode, BitVec.extractLsb'_or, extractLsb'_bitAt, extractLsb'_code, hop]

/-- A word in a row of a command has no reserved bit and the row's OP (R46, R47). -/
theorem fields_of_inRow {w m : BitVec 32} (h : Laws.inRow 0x0000FC03#32 m w) :
    w.extractLsb' 10 6 = m.extractLsb' 10 6 ∧ w.extractLsb' 0 2 = m.extractLsb' 0 2 := by
  unfold Laws.inRow at h
  subst h
  have hr : (0x0000FC03#32).extractLsb' 10 6 = BitVec.allOnes 6 := by decide
  have ho : (0x0000FC03#32).extractLsb' 0 2 = BitVec.allOnes 2 := by decide
  rw [BitVec.extractLsb'_and, BitVec.extractLsb'_and, hr, ho, BitVec.and_allOnes, BitVec.and_allOnes]
  exact ⟨rfl, rfl⟩

/-- The encoding of a command decodes to it (R46 to R52). -/
theorem decodeCommand_of_encode {i : Instr} {c : Command} (h : encode i = .command c) : decodeCommand c = .ok i := by
  cases i with
  | send fin bin cmp msk ro cb len buf =>
    obtain ⟨hr, ho⟩ := fields_of_inRow (Laws.EncodesToRow.send fin bin cmp msk ro cb len buf)
    cases h
    rw [decodeCommand_send hr ho]
    simp
  | ping msk ro cb len buf =>
    obtain ⟨hr, ho⟩ := fields_of_inRow (Laws.EncodesToRow.ping msk ro cb len buf)
    cases h
    rw [decodeCommand_ping hr ho]
    simp
  | pong msk ro cb len buf =>
    obtain ⟨hr, ho⟩ := fields_of_inRow (Laws.EncodesToRow.pong msk ro cb len buf)
    cases h
    rw [decodeCommand_pong hr ho]
    simp
  | close msk cb code len buf =>
    obtain ⟨hr, ho⟩ := fields_of_inRow (Laws.EncodesToRow.close msk cb code len buf)
    cases h
    rw [decodeCommand_close hr ho]
    simp [decodeCloseCode_encode, encodeCloseCode_low]
  | _ => cases h

/-! ### The obligations -/

/-- Settles O1: the command words, byte 0 and the length forms are each decoded to what they encode. -/
theorem decodeEncode : Obligations.DecodeEncode := by
  unfold Obligations.DecodeEncode
  intro i hwf
  cases he : encode i with
  | command c => exact decodeCommand_of_encode he
  | header0 b => exact decodeHeader0_of_encode he
  | header1 ws =>
    have hd := decodeHeader1_of_encode hwf he []
    rw [List.append_nil] at hd
    rw [decode, hd]

/-- Only a length form L7 can be ill-formed. -/
theorem wf_of_ne_lenL7 {i : Instr} (h : ∀ len7 key, i ≠ .lenL7 len7 key) : i.wf = true := by
  cases i with
  | lenL7 len7 key => exact absurd rfl (h len7 key)
  | _ => rfl

theorem exists_decodeHeader1_of_decode {bs : List Byte} {i : Instr} (h : decode (.header1 bs) = .ok i) :
    ∃ rest, decodeHeader1 bs = .ok (i, rest) := by
  simp only [decode] at h
  split at h
  · next j rest hd =>
    cases h
    exact ⟨rest, hd⟩
  · cases h

/-- Settles O3: only form L7 can be ill-formed, and the decoder takes the markers for the other two forms. -/
theorem decodedWellFormed : Obligations.DecodedWellFormed := by
  unfold Obligations.DecodedWellFormed
  intro w i h
  cases w with
  | command c =>
    refine wf_of_ne_lenL7 fun len7 key hi => ?_
    cases hi ▸ decode_command_isCommand h
  | header0 b =>
    refine wf_of_ne_lenL7 fun len7 key hi => ?_
    cases hi ▸ encode_of_decodeHeader0 h
  | header1 bs =>
    obtain ⟨rest, hd⟩ := exists_decodeHeader1_of_decode h
    exact (encode_of_decodeHeader1 hd).1

/-- Settles O6: the decoder reads the bits of the fields that the operation uses and no others. -/
theorem ignoredFields : Obligations.IgnoredFields := by
  unfold Obligations.IgnoredFields
  intro c d hc hd hlen hbuf hop
  refine ⟨fun h0 hf => ?send, fun h12 hf => ?pingPong, fun h3 hmsk hcb hcp hcode => ?close⟩
  case send =>
    have hbit : ∀ i, 2 ≤ i → i < 8 → c.cmd.getLsbD i = d.cmd.getLsbD i :=
      fun i h2 h8 => getLsbD_eq_of_extractLsb'_eq hf h2 h8
    rw [decode, decode, decodeCommand_send hc h0, decodeCommand_send hd (hop ▸ h0), hbit 2, hbit 3, hbit 4, hbit 5,
      hbit 6, hbit 7, hlen, hbuf] <;> decide
  case pingPong =>
    have hbit : ∀ i, 5 ≤ i → i < 8 → c.cmd.getLsbD i = d.cmd.getLsbD i :=
      fun i h5 h8 => getLsbD_eq_of_extractLsb'_eq hf h5 h8
    rcases h12 with h1 | h2
    · rw [decode, decode, decodeCommand_ping hc h1, decodeCommand_ping hd (hop ▸ h1), hbit 5, hbit 6, hbit 7, hlen,
        hbuf] <;> decide
    · rw [decode, decode, decodeCommand_pong hc h2, decodeCommand_pong hd (hop ▸ h2), hbit 5, hbit 6, hbit 7, hlen,
        hbuf] <;> decide
  case close =>
    have hclose : decodeCloseCode c.cmd = decodeCloseCode d.cmd := by
      unfold decodeCloseCode
      rw [← hcp]
      split
      · next h8 =>
        obtain ⟨hcv, hfield⟩ := hcode h8
        rw [hcv, hfield]
      · rfl
    rw [decode, decode, decodeCommand_close hc h3, decodeCommand_close hd (hop ▸ h3), hmsk, hcb, hclose, hlen, hbuf]

/-- Settles O4: each word is decoded by evaluation. -/
theorem decodeWords : Obligations.DecodeWords := by
  unfold Obligations.DecodeWords
  decide

/-- Settles O54: each form is its expansion, with data and without. -/
theorem apiForms : Obligations.ApiForms := by
  unfold Obligations.ApiForms
  exact ⟨fun _ => rfl, fun _ _ _ _ _ => rfl, ⟨rfl, rfl⟩, fun _ => ⟨rfl, rfl⟩, fun _ _ => ⟨rfl, rfl⟩,
    fun _ => ⟨rfl, fun _ => rfl, fun _ _ _ => rfl⟩⟩

end Sys2Proof.Machine
end

section
/-!
The frame header: its length forms, its length, and how a checker tells a frame from its bytes (spec/30_encoding.md R53
to R63, spec/40_frame_primitives.md R64, R67, R68, R78).
-/

namespace Sys2Proof.Machine

/-! ### The length forms (R56, R64) -/

section
variable {n : Len}

theorem encodeLength_L7 (h : n.toNat < 126) : encodeLength n = (n.extractLsb' 0 7, []) :=
  if_pos h

theorem encodeLength_L16 (h : 126 ≤ n.toNat) (h' : n.toNat ≤ 65535) :
    encodeLength n = (126#7, be16 (n.extractLsb' 0 16)) := by
  rw [encodeLength, if_neg (Nat.not_lt.mpr h), if_pos h']

theorem encodeLength_L64 (h : 65536 ≤ n.toNat) : encodeLength n = (127#7, be64 n) := by
  rw [encodeLength, if_neg (by omega), if_neg (by omega)]

end

/-- A byte of a number is a digit of it in base 256 (R8). -/
theorem extractLsb'_byte_eq_ofNat {w : Nat} (v : BitVec w) (s : Nat) :
    v.extractLsb' s 8 = BitVec.ofNat 8 (v.toNat / 2 ^ s) := by
  rw [BitVec.extractLsb', Nat.shiftRight_eq_div_pow]

/-- The low bits of a number that fits them are the number. -/
theorem toNat_extractLsb'_zero {n : Len} {w : Nat} (h : n.toNat < 2 ^ w) : (n.extractLsb' 0 w).toNat = n.toNat := by
  rw [BitVec.extractLsb'_toNat, Nat.shiftRight_zero, Nat.mod_eq_of_lt h]

/-- A length form that the block emits: minimal, its words what `EncodeLength` gives, and it tells that length and key
(R56, R57, R63, R64). -/
theorem exists_lengthForm (n : Len) (key : Option Key) :
    ∃ i, encode i = .header1 (headerByte1 key.isSome (encodeLength n).1 :: (encodeLength n).2 ++ keyField key) ∧
      i.minimal = true ∧ i.wf = true ∧ formLength i = n ∧ formKey i = key := by
  by_cases h7 : n.toNat < 126
  · have hn : (n.extractLsb' 0 7).toNat = n.toNat := toNat_extractLsb'_zero (by omega)
    refine ⟨.lenL7 (n.extractLsb' 0 7) key, by rw [encodeLength_L7 h7]; rfl, decide_eq_true (by omega),
      decide_eq_true (by omega), BitVec.eq_of_toNat_eq ?_, rfl⟩
    rw [formLength, BitVec.toNat_setWidth, hn, Nat.mod_eq_of_lt n.isLt]
  · by_cases h16 : n.toNat ≤ 65535
    · have hn : (n.extractLsb' 0 16).toNat = n.toNat := toNat_extractLsb'_zero (by omega)
      refine ⟨.lenL16 (n.extractLsb' 0 16) key, by rw [encodeLength_L16 (by omega) h16]; rfl, decide_eq_true (by omega),
        rfl, BitVec.eq_of_toNat_eq ?_, rfl⟩
      rw [formLength, BitVec.toNat_setWidth, hn, Nat.mod_eq_of_lt n.isLt]
    · exact ⟨.lenL64 n key, by rw [encodeLength_L64 (by omega)]; rfl, decide_eq_true (by omega), rfl, rfl, rfl⟩

/-- Settles O7: each form is one branch of `EncodeLength`, and the bytes of `BE16` and `BE64` are the digits of `n`. -/
theorem lengthForms : Obligations.LengthForms := by
  unfold Obligations.LengthForms
  intro n
  refine ⟨fun h => ?l7, fun h h' => ?l16, fun h => ?l64⟩
  case l7 =>
    rw [encodeLength_L7 h]
    exact ⟨toNat_extractLsb'_zero (by omega), rfl⟩
  case l16 =>
    have hn : (n.extractLsb' 0 16).toNat = n.toNat := toNat_extractLsb'_zero (by omega)
    rw [encodeLength_L16 h h', be16, extractLsb'_byte_eq_ofNat, extractLsb'_byte_eq_ofNat, hn, Nat.pow_zero,
      Nat.div_one]
    rfl
  case l64 =>
    rw [encodeLength_L64 h, be64]
    simp only [extractLsb'_byte_eq_ofNat, Nat.pow_zero, Nat.div_one]

/-! ### The header's length (R58) -/

theorem encodeLength_snd_length (n : Len) :
    (encodeLength n).2.length = if n.toNat < 126 then 0 else if n.toNat ≤ 65535 then 2 else 8 := by
  unfold encodeLength
  split
  · rfl
  · split <;> rfl

theorem packHeader_length (opcode : BitVec 4) (fin rsv1 : Bool) (n : Len) (key : Option Key) :
    (packHeader opcode fin rsv1 n key).length =
      2 + (if n.toNat < 126 then 0 else if n.toNat ≤ 65535 then 2 else 8) + (if key.isSome then 4 else 0) := by
  simp only [packHeader, List.cons_append, List.length_cons, List.length_append, encodeLength_snd_length,
    keyField_length]
  omega

theorem fastHeader_length (opcode : BitVec 4) (fin masked : Bool) :
    (fastHeader opcode fin masked).length = 2 + (if masked then 4 else 0) := by
  cases masked <;> rfl

theorem frameHeader_length {f : Frame} (h : f.payload.length < 2 ^ 64) :
    (frameHeader f).length = 2 + (if f.payload.length < 126 then 0 else if f.payload.length ≤ 65535 then 2 else 8) +
      (if f.key.isSome then 4 else 0) := by
  unfold frameHeader
  split
  · next h0 => rw [fastHeader_length, h0]; rfl
  · rw [packHeader_length, BitVec.toNat_ofNat, Nat.mod_eq_of_lt h]

/-- Settles O11: `PackHeader` and the header of an empty frame both have the length of R58, and the payload follows. -/
theorem headerLength : Obligations.HeaderLength := by
  unfold Obligations.HeaderLength
  intro f hf
  have hH := frameHeader_length hf
  refine ⟨hH, ?_, ?_⟩
  · rw [frameWire, List.length_append, frameBody_length, hH]
  · exact List.drop_left' hH

/-- Settles O9: the header from byte 1 on is the encoding of a minimal length form. -/
theorem headerReadsBack : Obligations.HeaderReadsBack := by
  unfold Obligations.HeaderReadsBack
  intro opcode fin rsv1 n key rest
  obtain ⟨i, he, hmin, hwf, hlen, hkey⟩ := exists_lengthForm n key
  refine ⟨i, decodeHeader1_of_encode hwf he rest, hlen, hkey, hmin, ?_⟩
  rw [headerSize_of_encode he, Nat.add_comm]
  rfl

/-! ### The frame told back from its bytes (R63, R67) -/

/-- Masking twice with one key gives the payload back (R67). -/
theorem mask_mask (p : List Byte) (k : Key) : mask (mask p k) k = p := by
  refine List.ext_getElem? fun j => ?_
  rw [mask_getElem?, mask_getElem?, Option.map_map]
  simp [Function.comp_def]

theorem frameBody_frameBody (p : List Byte) (key : Option Key) : frameBody (frameBody p key) key = p := by
  cases key with
  | none => rfl
  | some k => exact mask_mask p k

/-- The header of an empty frame is the one `PackHeader` gives it, without RSV1 and with the zero key if masked
(R78). -/
theorem fastHeader_eq_packHeader (opcode : BitVec 4) (fin : Bool) {key : Option Key}
    (h : key = none ∨ key = some 0#32) :
    fastHeader opcode fin key.isSome = packHeader opcode fin false 0#64 key := by
  rcases h with rfl | rfl <;> rfl

/-- What R59, R104, R78 and R46 ask of a frame, one after the other. -/
theorem emittable_iff (f : Frame) :
    emittable f = true ↔
      (isData f.opcode = true ∨ (isControl f.opcode = true ∧ f.fin = true ∧ f.rsv1 = false)) ∧
      (f.payload.length = 0 → f.rsv1 = false ∧ (f.key = none ∨ f.key = some 0#32)) ∧ f.payload.length < 2 ^ 64 := by
  simp only [emittable, Bool.and_eq_true, Bool.or_eq_true, decide_eq_true_eq, Bool.not_eq_true', beq_iff_eq, and_assoc]
  tauto

theorem frameHeader_eq_packHeader {f : Frame} (h : emittable f = true) :
    frameHeader f = packHeader f.opcode f.fin f.rsv1 (BitVec.ofNat 64 f.payload.length) f.key := by
  obtain ⟨-, hempty, -⟩ := (emittable_iff f).mp h
  unfold frameHeader
  split
  · next h0 =>
    obtain ⟨hrsv1, hkey⟩ := hempty h0
    rw [fastHeader_eq_packHeader _ _ hkey, hrsv1, h0]
  · rfl

/-- Byte 0 of a frame the block can emit decodes, and tells its FIN, RSV1 and opcode (R54, R59). -/
theorem decodeHeader0_headerByte0 {opcode : BitVec 4} {fin rsv1 : Bool}
    (h : isData opcode = true ∨ (isControl opcode = true ∧ fin = true ∧ rsv1 = false)) :
    ∃ i, decodeHeader0 (headerByte0 fin rsv1 opcode) = .ok i ∧ formByte0 i = some (fin, rsv1, opcode) := by
  simp only [isData, isControl, Bool.or_eq_true, beq_iff_eq] at h
  rcases h with ((rfl | rfl) | rfl) | ⟨(rfl | rfl) | rfl, rfl, rfl⟩
  · exact ⟨.frameContinuation fin rsv1, decodeHeader0_of_encode rfl, rfl⟩
  · exact ⟨.frameText fin rsv1, decodeHeader0_of_encode rfl, rfl⟩
  · exact ⟨.frameBinary fin rsv1, decodeHeader0_of_encode rfl, rfl⟩
  · exact ⟨.frameClose, rfl, rfl⟩
  · exact ⟨.framePing, rfl, rfl⟩
  · exact ⟨.framePong, rfl, rfl⟩

/-- The header of `f` is `b` and then `hs`; they decode to `i0` and `i1`, which tell what `f` is (R63). -/
structure HeaderTells (f : Frame) (b : Byte) (hs : List Byte) (i0 i1 : Instr) : Prop where
  header : frameHeader f = b :: hs
  byte0 : decodeHeader0 b = .ok i0
  flags : formByte0 i0 = some (f.fin, f.rsv1, f.opcode)
  byte1 : ∀ rest, decodeHeader1 (hs ++ rest) = .ok (i1, rest)
  size : headerSize i1 = hs.length
  length : (formLength i1).toNat = f.payload.length
  key : formKey i1 = f.key

theorem exists_headerTells {f : Frame} (h : emittable f = true) : ∃ b hs i0 i1, HeaderTells f b hs i0 i1 := by
  obtain ⟨hop, -, hlen⟩ := (emittable_iff f).mp h
  obtain ⟨i0, hd0, hflags⟩ := decodeHeader0_headerByte0 hop
  obtain ⟨i1, he, -, hwf, hn, hkey⟩ := exists_lengthForm (BitVec.ofNat 64 f.payload.length) f.key
  exact ⟨_, _, i0, i1, frameHeader_eq_packHeader h, hd0, hflags, decodeHeader1_of_encode hwf he,
    headerSize_of_encode he, by rw [hn, BitVec.toNat_ofNat, Nat.mod_eq_of_lt hlen], hkey⟩

/-- Settles O14: the header tells where the payload ends and which key unmasks it. -/
theorem frameReadsBack : Obligations.FrameReadsBack := by
  unfold Obligations.FrameReadsBack
  intro f rest h
  obtain ⟨b, hs, i0, i1, t⟩ := exists_headerTells h
  have hbody : (frameBody f.payload f.key).length = f.payload.length := frameBody_length ..
  rw [frameWire, t.header, List.cons_append, List.cons_append, List.append_assoc]
  simp only [parseFrame, t.byte0, t.flags, t.byte1, t.length, t.key]
  rw [if_pos (by simp), List.take_left' hbody, List.drop_left' hbody, frameBody_frameBody]

end Sys2Proof.Machine
end

section
/-!
The turns of ENC and of the checker, case by case, and where a step stops (spec/30_encoding.md R61, R63,
spec/40_frame_primitives.md R67, spec/70_reset_and_hazards.md R125, R129).
-/

namespace Sys2Proof.Machine

/-! ### The header forms as instructions (R54 to R59, R63) -/

/-- A header form acts on the checker's registers alone. -/
theorem exec_header {i : Instr} (hi : isCommand i = false) (s : State) :
    ∃ r, exec i s = .next { s with reader := r } := by
  cases i with
  | send | ping | pong | close => cases hi
  | _ => exact ⟨_, rfl⟩

/-- Settles O32: each form is one `readByte0`. -/
theorem byte0Forms : Obligations.Byte0Forms := by
  unfold Obligations.Byte0Forms
  intro s fin rsv1
  exact ⟨rfl, rfl, rfl, rfl, rfl, rfl⟩

/-- Settles O33: each form is one `readLength`, and its size is byte 1, the extended length and the key. -/
theorem lengthFormsRead : Obligations.LengthFormsRead := by
  unfold Obligations.LengthFormsRead
  intro s key
  have hkey : (keyField key).length = 4 * key.isSome.toNat := by cases key <;> rfl
  refine ⟨fun len7 => ?_, fun n => ?_, fun n => ?_⟩
  all_goals
    simp only [exec, execLenL7, execLenL16, execLenL64, readLength, headerSize, hkey, BitVec.ofNat_toNat,
      ← Nat.add_assoc]

/-- Settles O34: the next state of a header form has other registers of the checker, and is the same besides. -/
theorem headerFormsFrame : Obligations.HeaderFormsFrame := by
  unfold Obligations.HeaderFormsFrame
  intro s t i hi h
  obtain ⟨r, hr⟩ := exec_header hi s
  cases hr.symm.trans h
  rfl

/-- No instruction stops the machine. -/
theorem exec_next (i : Instr) (s : State) : ∃ t, exec i s = .next t := by
  cases hi : isCommand i with
  | true =>
    rw [exec_command hi]
    cases verdict s i <;> exact ⟨_, rfl⟩
  | false =>
    obtain ⟨r, hr⟩ := exec_header hi s
    exact ⟨_, hr⟩

/-! ### ENC's turn -/

theorem step_enc {s : State} (hs : s.turn = .enc) : step s = advance (encTurn s) := by
  simp only [step, agentTurn, hs]

theorem encTurn_idle {s : State} (hp : s.port = none) : encTurn s = .next s := by
  simp only [encTurn, hp]

theorem encTurn_reserved {s : State} {c : Command} (hp : s.port = some c) (h : c.cmd.extractLsb' 10 6 ≠ 0#6) :
    encTurn s = .refused .reservedBits := by
  simp only [encTurn, hp, decode, decodeCommand_reserved h]

theorem encTurn_command {s : State} {c : Command} {i : Instr} (hp : s.port = some c) (h : decode (.command c) = .ok i) :
    encTurn s = exec i s := by
  simp only [encTurn, hp, h]

/-- ENC's turn answers a next state, but for a command with a reserved bit set (R61). -/
theorem encTurn_next_or_reserved (s : State) :
    (∃ t, encTurn s = .next t) ∨
      (encTurn s = .refused .reservedBits ∧ ∃ c, s.port = some c ∧ c.cmd.extractLsb' 10 6 ≠ 0#6) := by
  cases hp : s.port with
  | none => exact .inl ⟨s, encTurn_idle hp⟩
  | some c =>
    by_cases hr : c.cmd.extractLsb' 10 6 = 0#6
    · obtain ⟨i, hd, -⟩ := decodeCommand_isCommand hr
      rw [encTurn_command hp hd]
      exact .inl (exec_next i s)
    · exact .inr ⟨encTurn_reserved hp hr, c, rfl, hr⟩

/-- Settles O5: the reserved bits are looked at first, and every value of OP selects an operation. -/
theorem reservedBitsRefused : Obligations.ReservedBitsRefused := by
  unfold Obligations.ReservedBitsRefused
  refine ⟨fun s c hs hp h => ?_, fun c h => decodeCommand_isCommand h⟩
  rw [step_enc hs, encTurn_reserved hp h]
  rfl

/-! ### The checker's turn -/

theorem step_reader {s : State} (hs : s.turn = .reader) : step s = advance (readerTurn s) := by
  simp only [step, agentTurn, hs]

section
variable {s : State} {b : Byte} {rest : List Byte} {i : Instr} {e : DecodeError}

theorem readerTurn_idle (hph : s.reader.phase = .header0) (hin : s.reader.input = []) : readerTurn s = .next s := by
  simp only [readerTurn, hph, hin]

theorem readerTurn_lost (hph : s.reader.phase = .lost) : readerTurn s = .next s := by
  simp only [readerTurn, hph]

theorem readerTurn_badByte0 (hph : s.reader.phase = .header0) (hin : s.reader.input = b :: rest)
    (hd : decode (.header0 b) = .error e) : readerTurn s = .next (readerLost s) := by
  simp only [readerTurn, hph, hin, hd]

theorem readerTurn_byte0 {fin rsv1 : Bool} {op : BitVec 4} (hph : s.reader.phase = .header0)
    (hin : s.reader.input = b :: rest) (hd : decodeHeader0 b = .ok i) (hf : formByte0 i = some (fin, rsv1, op)) :
    readerTurn s = .next (readByte0 fin rsv1 op s) := by
  obtain ⟨-, fin', rsv1', op', hf', he⟩ := decodeHeader0_form hd
  cases hf.symm.trans hf'
  simp only [readerTurn, hph, hin, decode, hd, he]

theorem readerTurn_truncated (hph : s.reader.phase = .header1) (hd : decode (.header1 s.reader.input) = .error e) :
    readerTurn s = .next s := by
  simp only [readerTurn, hph, hd]

theorem readerTurn_length (hph : s.reader.phase = .header1) (hd : decodeHeader1 s.reader.input = .ok (i, rest)) :
    readerTurn s = .next (readLength (formLength i) (formKey i) (headerSize i) s) := by
  simp only [readerTurn, hph, decode, hd, (decodeHeader1_form hd).2]

theorem readerTurn_waits (hph : s.reader.phase = .payload) (h : s.reader.input.length < s.reader.len.toNat) :
    readerTurn s = .next s := by
  simp only [readerTurn, hph, readPayload, if_neg (Nat.not_le.mpr h)]

/-- A payload there whole is taken and unmasked (R63, R67). -/
theorem readerTurn_payload {p : List Byte} (hph : s.reader.phase = .payload) (hin : s.reader.input = p ++ rest)
    (hp : p.length = s.reader.len.toNat) :
    readerTurn s = .next { s with reader := { s.reader with
      input := rest, phase := .header0, payload := frameBody p s.reader.key } } := by
  have hle : s.reader.len.toNat ≤ (p ++ rest).length := by
    rw [List.length_append, hp]
    exact Nat.le_add_right ..
  simp only [readerTurn, hph, readPayload, hin, if_pos hle, List.take_left' hp, List.drop_left' hp]

end

/-- Settles O56: a turn without an instruction is one case of `encTurn` or `readerTurn`. -/
theorem turnsWithoutInstruction : Obligations.TurnsWithoutInstruction := by
  unfold Obligations.TurnsWithoutInstruction
  intro s
  refine ⟨fun hs hp => ?_, fun hs => ?_⟩
  · rw [step_enc hs, encTurn_idle hp]
    rfl
  · rw [step_reader hs]
    refine ⟨?next, fun hph hin => ?idle, fun b rest e hph hin hd => ?badByte0, fun e hph hd => ?truncated,
      fun hph h => ?waits, fun p rest hph hin hp => ?payload, fun hph => ?lost⟩
    case next =>
      obtain ⟨r, hr⟩ := readerTurn_next s
      exact ⟨_, hr, by rw [hr]; rfl⟩
    case idle => rw [readerTurn_idle hph hin]; rfl
    case badByte0 => rw [readerTurn_badByte0 hph hin hd]; rfl
    case truncated => rw [readerTurn_truncated hph hd]; rfl
    case waits => rw [readerTurn_waits hph h]; rfl
    case payload => rw [readerTurn_payload hph hin hp]; rfl
    case lost => rw [readerTurn_lost hph]; rfl

/-- Settles O35: three turns, one for byte 0, one for the rest of the header and one for the payload. -/
theorem checkerReadsFrame : Obligations.CheckerReadsFrame := by
  unfold Obligations.CheckerReadsFrame
  intro s f rest h hph hin
  obtain ⟨b, hs, i0, i1, t⟩ := exists_headerTells h
  rw [frameWire, t.header, List.cons_append, List.cons_append, List.append_assoc] at hin
  have hin1 : (readByte0 f.fin f.rsv1 f.opcode s).reader.input = hs ++ (frameBody f.payload f.key ++ rest) :=
    congrArg (List.drop 1) hin
  have hd1 := t.byte1 (frameBody f.payload f.key ++ rest)
  rw [← hin1] at hd1
  have hin2 : (readLength (formLength i1) (formKey i1) (headerSize i1)
      (readByte0 f.fin f.rsv1 f.opcode s)).reader.input = frameBody f.payload f.key ++ rest :=
    (congrArg (List.drop (headerSize i1)) hin1).trans (List.drop_left' t.size.symm)
  refine ⟨_, _, _, readerTurn_byte0 hph hin t.byte0 t.flags, readerTurn_length rfl hd1,
    readerTurn_payload rfl hin2 ((frameBody_length ..).trans t.length.symm), ?_⟩
  simp only [readLength, readByte0, t.key, frameBody_frameBody, t.header, t.size, List.length_cons, Nat.add_comm,
    ← t.length, BitVec.ofNat_toNat, BitVec.setWidth_eq]

/-! ### Where a step stops (R61, R129) -/

/-- HOST's turn answers a next state, but for a store outside the memory or onto a byte in flight (R31, R129). -/
theorem hostAct_next_or_badStore (s : State) :
    (∃ t, hostAct s = .next t) ∨ ∃ f a bs rest, hostAct s = .fault f ∧ s.host = .store a bs :: rest ∧
      (2 ^ s.cfg.addrW < a + bs.length ∨ ∃ x, a ≤ x ∧ x < a + bs.length ∧ heldByte s x) := by
  rcases hh : s.host with _ | ⟨c | ⟨a, bs⟩, rest⟩
  · exact .inl ⟨s, hostAct_idle hh⟩
  · by_cases hp : s.port = none
    · exact .inl ⟨_, hostAct_present_free hh hp⟩
    · exact .inl ⟨s, hostAct_present_busy hh hp⟩
  · by_cases ha : a + bs.length ≤ 2 ^ s.cfg.addrW
    · by_cases hx : ∃ x, a ≤ x ∧ x < a + bs.length ∧ heldByte s x
      · exact .inr ⟨_, a, bs, rest, hostAct_store_held hh ha hx, rfl, .inr hx⟩
      · exact .inl ⟨_, hostAct_store_done hh ha fun x h1 h2 h3 => hx ⟨x, h1, h2, h3⟩⟩
    · exact .inr ⟨_, a, bs, rest, hostAct_store_outside hh (by omega), rfl, .inl (by omega)⟩

/-- A step answers a next state, but for a reserved bit on ENC's turn and a bad store on HOST's. -/
theorem step_next_or_stop (s : State) :
    (∃ t, step s = .next t) ∨
    (step s = .refused .reservedBits ∧ s.turn = .enc ∧ ∃ c, s.port = some c ∧ c.cmd.extractLsb' 10 6 ≠ 0#6) ∨
    (∃ f, step s = .fault f ∧ s.turn = .host ∧ ∃ a bs rest, s.host = .store a bs :: rest ∧
      (2 ^ s.cfg.addrW < a + bs.length ∨ ∃ x, a ≤ x ∧ x < a + bs.length ∧ heldByte s x)) := by
  cases hs : s.turn with
  | host =>
    rw [step_host hs]
    rcases hostAct_next_or_badStore s with ⟨t, ht⟩ | ⟨f, a, bs, rest, hf, hstore⟩
    · exact .inl ⟨nextTurn t, by rw [ht]; rfl⟩
    · exact .inr (.inr ⟨f, by rw [hf]; rfl, rfl, a, bs, rest, hstore⟩)
  | enc =>
    rw [step_enc hs]
    rcases encTurn_next_or_reserved s with ⟨t, ht⟩ | ⟨hr, hc⟩
    · exact .inl ⟨nextTurn t, by rw [ht]; rfl⟩
    · exact .inr (.inl ⟨by rw [hr]; rfl, rfl, hc⟩)
  | drain => exact .inl ⟨nextTurn (drainIssue s), by simp only [step, agentTurn, hs, advance]⟩
  | transport => exact .inl ⟨nextTurn (transportTurn s), by simp only [step, agentTurn, hs, advance]⟩
  | reader =>
    obtain ⟨r, hr⟩ := readerTurn_next s
    exact .inl ⟨_, by rw [step_reader hs, hr]; rfl⟩

/-- Settles O38: of the three outcomes in `step_next_or_stop` each stop is one. -/
theorem stopsOnly : Obligations.StopsOnly := by
  unfold Obligations.StopsOnly
  intro s
  constructor
  · intro r hr
    rcases step_next_or_stop s with ⟨t, h⟩ | ⟨h, hcause⟩ | ⟨f, h, -⟩ <;> cases h.symm.trans hr
    exact ⟨rfl, hcause⟩
  · intro g hg
    rcases step_next_or_stop s with ⟨t, h⟩ | ⟨h, -⟩ | ⟨f, h, hcause⟩ <;> cases h.symm.trans hg
    exact hcause

end Sys2Proof.Machine
end

section
/-!
The frame primitives as functions on bytes: `EncodeLength` at its boundaries, the header packer and the masker
(spec/40_frame_primitives.md R65 to R68), and the source of the mask key (R71, R72).
-/

namespace Sys2Proof.Machine

/-! ### The header packer (R65, R68) -/

/-- Settles O8: each value is `EncodeLength` evaluated. -/
theorem lengthBoundaries : Obligations.LengthBoundaries := by
  unfold Obligations.LengthBoundaries
  decide

/-- Fields put side by side are the fields shifted to their places; RSV2 and RSV3 are the two zero bits (R54). -/
theorem headerByte0_eq_or (fin rsv1 : Bool) (opcode : BitVec 4) :
    headerByte0 fin rsv1 opcode =
      ((BitVec.ofBool fin).setWidth 8 <<< 7) ||| ((BitVec.ofBool rsv1).setWidth 8 <<< 6) ||| opcode.setWidth 8 := by
  rw [← BitVec.setWidth_eq (headerByte0 fin rsv1 opcode), headerByte0,
    BitVec.setWidth_append_append_append_eq_shiftLeft_setWidth_or]
  simp

theorem headerByte1_eq_or (masked : Bool) (len7 : BitVec 7) :
    headerByte1 masked len7 = ((BitVec.ofBool masked).setWidth 8 <<< 7) ||| len7.setWidth 8 := by
  rw [← BitVec.setWidth_eq (headerByte1 masked len7), headerByte1, BitVec.setWidth_append_eq_shiftLeft_setWidth_or]

theorem keyBytes_eq_shifts (k : Key) :
    keyBytes k = [(k >>> 24).setWidth 8, (k >>> 16).setWidth 8, (k >>> 8).setWidth 8, k.setWidth 8] := by
  have hk3 : k.setWidth 8 = k.extractLsb' 0 8 := by
    rw [← BitVec.setWidth_ushiftRight_eq_extractLsb, BitVec.ushiftRight_zero]
  simp only [keyBytes, BitVec.setWidth_ushiftRight_eq_extractLsb, hk3]

/-- Settles O10: each of the two header bytes is its fields at their places, and the key follows iff there is one. -/
theorem packHeaderBytes : Obligations.PackHeader := by
  unfold Obligations.PackHeader
  intro opcode fin rsv1 n key
  rw [packHeader, headerByte0_eq_or, headerByte1_eq_or]
  cases key with
  | none => simp [keyField]
  | some k => simp [keyField, keyBytes_eq_shifts]

/-! ### The masker (R66, R67) -/

/-- Settles O12: the byte of the key at `i mod 4` is the lane that `mask` takes at offset `i`. -/
theorem maskBytes : Obligations.MaskBytes := by
  unfold Obligations.MaskBytes
  intro p k
  refine ⟨mask_length p k, fun i b kb hb hkb => ?_⟩
  have hlane : keyLane k i = kb := Option.some.inj ((keyBytes_getElem? k i).symm.trans hkb)
  rw [mask_getElem?, hb, hlane, Option.map_some]

/-- Settles O13: masking is its own inverse, and the byte at offset `i` reads lane `i mod 4` of the key alone. -/
theorem maskInvolution : Obligations.MaskInvolution := by
  unfold Obligations.MaskInvolution
  intro p k
  refine ⟨mask_mask p k, mask_length p k, fun k' i hkey => ?_⟩
  have hlane : keyLane k i = keyLane k' i := by
    rw [keyBytes_getElem?, keyBytes_getElem?] at hkey
    exact Option.some.inj hkey
  rw [mask_getElem?, mask_getElem?, hlane]

/-! ### The mask key's source (R71, R72) -/

theorem isCommand_of_performs {s : State} {i : Instr} (h : performs s i) : isCommand i = true := by
  cases i with
  | send | ping | pong | close => rfl
  | _ => cases h

section
variable {draw : Key} {s : State}

theorem frameKey_perFrame (h : s.cfg.maskKeyPolicy = .perFrame) : frameKey draw s = draw := by
  simp only [frameKey, h]

theorem frameKey_cached (h : s.cfg.maskKeyPolicy = .cached) (hv : s.maskKeyValid = true) :
    frameKey draw s = s.maskKey := by
  simp only [frameKey, h, hv, if_true]

theorem frameKey_first (h : s.cfg.maskKeyPolicy = .cached) (hv : s.maskKeyValid = false) :
    frameKey draw s = draw := by
  simp [frameKey, h, hv]

end

/-- The key of a non-empty masked frame is what `MaskKey()` returns (R71). -/
theorem nextKey_of_nonempty {s : State} {n : Nat} (hn : n ≠ 0) :
    nextKey s true n = some (frameKey (Config.entropy s.draws) s) := by
  simp [nextKey, hn]

/-- `MaskKey()` neither reads nor writes `first_fragment` (R71). -/
theorem noteKey_setFragment (draw : Key) (s : State) (b : Bool) :
    noteKey draw { s with firstFragment := b } = { noteKey draw s with firstFragment := b } := by
  unfold noteKey
  dsimp only
  split
  · rfl
  · split <;> rfl

/-- A performed non-empty masked command calls `MaskKey()` once: the key registers and the draws are as it leaves them
(R85). -/
theorem performed_noteKey {s : State} {i : Instr} (hm : isMasked i = true) (hn : payloadLength i ≠ 0) :
    (performed s i).maskKey = (noteKey (Config.entropy s.draws) s).maskKey ∧
    (performed s i).maskKeyValid = (noteKey (Config.entropy s.draws) s).maskKeyValid ∧
    (performed s i).draws = (noteKey (Config.entropy s.draws) s).draws := by
  have hp : (frameArgs s i).payload ≠ [] := by
    rw [← List.length_pos_iff, frameArgs_payload_length]
    exact Nat.pos_of_ne_zero hn
  obtain ⟨hk, hv, hd⟩ : (performed s i).maskKey = _ ∧ (performed s i).maskKeyValid = _ ∧ (performed s i).draws = _ :=
    frameAndSend_key ..
  rw [hk, hv, hd, if_pos ⟨(frameArgs_masked s i).trans hm, hp⟩, noteKey_setFragment]
  exact ⟨rfl, rfl, rfl⟩

/-- Settles O29: a performed non-empty masked command calls `MaskKey()` once, and each case is one branch of it. -/
theorem maskKeySource : Obligations.MaskKeySource := by
  unfold Obligations.MaskKeySource
  intro s i hp hm hn
  obtain ⟨hk, hv, hd⟩ := performed_noteKey (s := s) hm hn
  refine ⟨performed s i, exec_of_performs (isCommand_of_performs hp) hp, ?_⟩
  rw [hk, hv, hd, nextKey_of_nonempty hn]
  refine ⟨fun hc => ?perFrame, fun hc hset => ?cached, fun hc hunset => ?first⟩
  case perFrame =>
    rw [noteKey_perFrame hc, frameKey_perFrame hc]
    exact ⟨rfl, rfl, rfl, rfl⟩
  case cached =>
    rw [noteKey_cached hc hset, frameKey_cached hc hset]
    exact ⟨rfl, hset, rfl, rfl⟩
  case first =>
    rw [noteKey_first hc hunset, frameKey_first hc hunset]
    exact ⟨rfl, rfl, rfl, rfl⟩

end Sys2Proof.Machine
end

section
/-!
The drain side, turn by turn: what DRAIN issues, what TRANSPORT's answer leaves, and the rounds that drain a job
(spec/41_frame_and_send.md R88 to R92); and the turns of ENC and the checker that run an instruction (R76).
-/

namespace Sys2Proof.Machine

/-! ### The turns that run an instruction -/

section
variable {s : State} {i : Instr}

theorem readerTurn_exec_byte0 {b : Byte} {rest : List Byte} (hph : s.reader.phase = .header0)
    (hin : s.reader.input = b :: rest) (hd : decode (.header0 b) = .ok i) : readerTurn s = exec i s := by
  simp only [readerTurn, hph, hin, hd]

theorem readerTurn_exec_length (hph : s.reader.phase = .header1) (hd : decode (.header1 s.reader.input) = .ok i) :
    readerTurn s = exec i s := by
  simp only [readerTurn, hph, hd]

end

/-- Settles O37: a command runs its acceptance, and a header form one update of the checker. -/
theorem execAnswersNext : Obligations.ExecAnswersNext :=
  fun s i => exec_next i s

/-- Settles O36: on each of the three ways the turn is `exec` of the decoded instruction. -/
theorem stepRunsDecoded : Obligations.StepRunsDecoded := by
  unfold Obligations.StepRunsDecoded
  intro s t i he h
  rcases h with ⟨hs, c, hp, hd⟩ | ⟨hs, hph, b, rest, hin, hd⟩ | ⟨hs, hph, hd⟩
  · rw [step_enc hs, encTurn_command hp hd, he]
    rfl
  · rw [step_reader hs, readerTurn_exec_byte0 hph hin hd, he]
    rfl
  · rw [step_reader hs, readerTurn_exec_length hph hd, he]
    rfl

/-! ### DRAIN's and TRANSPORT's turns -/

theorem step_drain {s : State} (hs : s.turn = .drain) : step s = .next (nextTurn (drainIssue s)) := by
  simp only [step, agentTurn, hs, advance]

theorem step_transport {s : State} (hs : s.turn = .transport) : step s = .next (nextTurn (transportTurn s)) := by
  simp only [step, agentTurn, hs, advance]

/-- DRAIN has no step while a write is outstanding or nothing is queued (R88). -/
theorem drainIssue_idle {s : State} (h : s.drainBusy = true ∨ s.fifo = []) : drainIssue s = s := by
  rcases drainIssue_cases s with he | ⟨j, js, w, hb, hq, -⟩
  · exact he
  · simp [hb, hq] at h

/-- No answer is taken while no write is outstanding (R90). -/
theorem drainAnswer_idle {s : State} (a : Answer) (hb : s.drainBusy = false) : drainAnswer a s = s := by
  simp [drainAnswer, hb]

section
variable {s : State} {j : Job} {js : List Job} {w : List Byte}

/-- DRAIN presents the head job's next write and marks it outstanding (R88). -/
theorem drainIssue_presents (hb : s.drainBusy = false) (hq : s.fifo = j :: js)
    (hw : writeAt j.writes s.drainNext = some w) :
    drainIssue s = { s with writes := s.writes ++ [w], drainBusy := true } := by
  simp only [drainIssue, hb, hq, hw, Bool.false_eq_true, if_false]

/-- `OK` with a write left: it is next (R89). -/
theorem drainAnswer_ok_more (hb : s.drainBusy = true) (hq : s.fifo = j :: js)
    (hn : hasNextWrite j.writes s.drainNext = true) :
    drainAnswer .ok s = deliver (outstanding s) { s with
      drainBusy := false, drainNext := true, answers := s.answers ++ [.ok] } := by
  simp only [drainAnswer, hb, hq, hn, Bool.not_true, Bool.false_eq_true, if_false, if_true]
  rfl

/-- `OK` of the last write: the job is popped, and completed iff its `cb = 1` (R89, R92). -/
theorem drainAnswer_ok_last (hb : s.drainBusy = true) (hq : s.fifo = j :: js)
    (hn : hasNextWrite j.writes s.drainNext = false) :
    drainAnswer .ok s = deliver (outstanding s) { s with
      drainBusy := false, drainNext := false, fifo := js, answers := s.answers ++ [.ok]
      completions := if j.cb then s.completions ++ [.ok] else s.completions } := by
  simp only [drainAnswer, hb, hq, hn, Bool.not_true, Bool.false_eq_true, if_false]
  cases j.cb <;> simp [popJob, complete, deliver]

/-- `ERR`: the job is popped and one port, chosen by `cb`, is driven (R89, R110). -/
theorem drainAnswer_err (hb : s.drainBusy = true) (hq : s.fifo = j :: js) :
    drainAnswer .err s = { s with
      drainBusy := false, drainNext := false, fifo := js, answers := s.answers ++ [.err]
      completions := if j.cb then s.completions ++ [.transportWriteFailure] else s.completions
      errorEvents := if j.cb then s.errorEvents else s.errorEvents ++ [.transportWriteFailure] } := by
  simp only [drainAnswer, hb, hq, Bool.not_true, Bool.false_eq_true, if_false]
  cases j.cb <;> simp [popJob, report, complete, errorEvent]

end

/-- Settles O39: a write presented, or no step, and the turn is that step. -/
theorem drainIssues : Obligations.DrainIssues := by
  unfold Obligations.DrainIssues
  intro s
  refine ⟨fun j js w hb hq hw => ?_, drainIssue_idle, fun hs => ⟨_, rfl, step_drain hs⟩⟩
  exact drainIssue_presents hb hq ((writeAt_eq ..).trans hw)

/-- Settles O41: without an outstanding write the answer step leaves the state as it is. -/
theorem transportTurnAnswers : Obligations.TransportTurn := by
  unfold Obligations.TransportTurn
  intro s hs
  refine ⟨transportTurn s, ?_, step_transport hs⟩
  cases hb : s.drainBusy with
  | true => rfl
  | false => exact drainAnswer_idle _ hb

/-- Settles O40: a write left, the last write, and a failed one are the three branches of the answer step. -/
theorem drainAnswerEffects : Obligations.DrainAnswer := by
  unfold Obligations.DrainAnswer
  intro s j js hb hq
  refine ⟨fun hmore => ?more, fun hlast => ?last, drainAnswer_err hb hq⟩
  case more =>
    rw [drainAnswer_ok_more hb hq ((hasNextWrite_iff ..).mpr hmore)]
    rfl
  case last =>
    have hn : hasNextWrite j.writes s.drainNext = false := by
      rw [← Bool.not_eq_true, hasNextWrite_iff]
      omega
    rw [drainAnswer_ok_last hb hq hn]
    rfl

/-! ### The rounds that drain a job -/

/-- One round of the drain: a write is issued and answered `OK` (R88, R89). -/
def drainRound (s : State) : State :=
  drainAnswer .ok (drainIssue s)

section
variable {s : State} {j : Job} {js : List Job} {w : List Byte}

/-- A round of a write that is not the job's last: it is presented, and the next one is next. -/
theorem drainRound_more (hb : s.drainBusy = false) (hq : s.fifo = j :: js)
    (hw : writeAt j.writes s.drainNext = some w) (hn : hasNextWrite j.writes s.drainNext = true) :
    drainRound s = deliver w { s with
      writes := s.writes ++ [w], drainBusy := false, drainNext := true, answers := s.answers ++ [.ok] } := by
  have hi := drainIssue_presents hb hq hw
  have hq' : (drainIssue s).fifo = j :: js := (drainIssue_fifo s).trans hq
  rw [← drainIssue_drainNext s] at hw hn
  rw [drainRound, drainAnswer_ok_more (by rw [hi]) hq' hn, outstanding_eq hq' hw, hi]

/-- A round of the job's last write: it is presented, and the job is gone. -/
theorem drainRound_last (hb : s.drainBusy = false) (hq : s.fifo = j :: js)
    (hw : writeAt j.writes s.drainNext = some w) (hn : hasNextWrite j.writes s.drainNext = false) :
    drainRound s = deliver w { s with
      writes := s.writes ++ [w], drainBusy := false, drainNext := false, fifo := js, answers := s.answers ++ [.ok]
      completions := if j.cb then s.completions ++ [.ok] else s.completions } := by
  have hi := drainIssue_presents hb hq hw
  have hq' : (drainIssue s).fifo = j :: js := (drainIssue_fifo s).trans hq
  rw [← drainIssue_drainNext s] at hw hn
  rw [drainRound, drainAnswer_ok_last (by rw [hi]) hq' hn, outstanding_eq hq' hw, hi]

end

/-- Settles O42: a single write takes one last round, a split one a round for its header and a last one for its payload. -/
theorem jobDrains : Obligations.JobDrains := by
  unfold Obligations.JobDrains
  intro s j js hb hn hq round
  obtain ⟨writes, cb, src⟩ := j
  cases writes with
  | single f =>
    have h1 : round s = _ := drainRound_last hb hq (w := f) (by rw [hn]; rfl) (by rw [hn]; rfl)
    dsimp only
    rw [h1]
    cases cb <;> simp [writeList, writeBytes]
  | split hdr body =>
    have h1 : round s = _ := drainRound_more hb hq (w := hdr) (by rw [hn]; rfl) (by rw [hn]; rfl)
    have h2 : round (round s) = _ := drainRound_last (s := round s) (w := body) (js := js)
      (j := ⟨.split hdr body, cb, src⟩) (by rw [h1]; rfl) (by rw [h1]; exact hq) (by rw [h1]; rfl) (by rw [h1]; rfl)
    dsimp only
    rw [h2, h1]
    cases cb <;> simp [writeList, writeBytes]

end Sys2Proof.Machine
end

section
/-!
`FrameAndSend` in closed form: the job, the write-back, the key cache and the draw (spec/41_frame_and_send.md R77 to R87,
spec/40_frame_primitives.md R71).
-/

namespace Sys2Proof.Machine

/-! ### The job's writes -/

theorem mergeDecision_iff (threshold n : Nat) (masked ro : Bool) :
    mergeDecision threshold n masked ro = true ↔ n < threshold ∨ (masked = true ∧ ro = true) := by
  simp [mergeDecision]

section
variable (draw : Key) (opcode : BitVec 4) (p : List Byte) (ro fin rsv1 masked : Bool) (s : State)

/-- The writes of an empty frame: its header alone (R78). -/
theorem sentWrites_nil : sentWrites draw opcode [] ro fin rsv1 masked s = .single (fastHeader opcode fin masked) := by
  cases masked <;> rfl

variable {p} in
/-- The writes of a non-empty frame: one or two by the merge decision (R81 to R84). -/
theorem sentWrites_nonempty (hp : p ≠ []) :
    sentWrites draw opcode p ro fin rsv1 masked s =
      if p.length < s.cfg.mergeThreshold ∨ (masked = true ∧ ro = true) then
        .single (packHeader opcode fin rsv1 (BitVec.ofNat 64 p.length) (sentKey draw masked p s) ++
          frameBody p (sentKey draw masked p s))
      else
        .split (packHeader opcode fin rsv1 (BitVec.ofNat 64 p.length) (sentKey draw masked p s))
          (frameBody p (sentKey draw masked p s)) := by
  have hlen : p.length ≠ 0 := mt List.length_eq_zero_iff.mp hp
  have hrsv1 : (rsv1 && !p.isEmpty) = rsv1 := by simp [hp]
  simp only [sentWrites, sentFrame, frameWire, frameHeader, hp, hlen, hrsv1, mergeDecision_iff, false_or, if_false]

end

/-! ### The key registers and the draws -/

/-- The key `MaskKey()` returns: the cached one, else the draw (R71). -/
theorem frameKey_eq (draw : Key) (s : State) :
    frameKey draw s = if s.cfg.maskKeyPolicy = .cached ∧ s.maskKeyValid = true then s.maskKey else draw := by
  cases hc : s.cfg.maskKeyPolicy with
  | perFrame => simp [frameKey_perFrame hc]
  | cached => simp [frameKey, hc]

/-- The call of `MaskKey()` that keeps its draw: the first under `CACHED` (R71). -/
theorem noteKey_maskKey (draw : Key) (s : State) :
    (noteKey draw s).maskKey =
      if s.cfg.maskKeyPolicy = .cached ∧ s.maskKeyValid = false then draw else s.maskKey := by
  cases hc : s.cfg.maskKeyPolicy with
  | perFrame => simp [noteKey_perFrame hc]
  | cached => cases hv : s.maskKeyValid <;> simp [noteKey, hc, hv]

theorem noteKey_maskKeyValid (draw : Key) (s : State) :
    (noteKey draw s).maskKeyValid =
      if s.cfg.maskKeyPolicy = .cached ∧ s.maskKeyValid = false then true else s.maskKeyValid := by
  cases hc : s.cfg.maskKeyPolicy with
  | perFrame => simp [noteKey_perFrame hc]
  | cached => cases hv : s.maskKeyValid <;> simp [noteKey, hc, hv]

/-- The calls of `MaskKey()` that draw: every one under `PER_FRAME`, the first under `CACHED` (R71). -/
theorem noteKey_draws (draw : Key) (s : State) :
    (noteKey draw s).draws =
      s.draws + if s.cfg.maskKeyPolicy = .perFrame ∨ s.maskKeyValid = false then 1 else 0 := by
  cases hc : s.cfg.maskKeyPolicy with
  | perFrame => simp [noteKey_perFrame hc]
  | cached => cases hv : s.maskKeyValid <;> simp [noteKey, hc, hv]

/-- The key registers and the draws after frame-and-send: the first masked frame under `CACHED` keeps its draw, and under
`PER_FRAME` each draws anew (R71, R85). -/
theorem frameAndSend_registers (draw : Key) (opcode : BitVec 4) (p : List Byte) (wb : Option Nat)
    (ro fin rsv1 masked cb : Bool) (src : Range) (s : State) :
    let t := frameAndSend draw opcode p wb ro fin rsv1 masked cb src s
    let keeps := masked = true ∧ p ≠ [] ∧ s.cfg.maskKeyPolicy = .cached ∧ s.maskKeyValid = false
    let draws := masked = true ∧ p ≠ [] ∧ (s.cfg.maskKeyPolicy = .perFrame ∨ s.maskKeyValid = false)
    t.maskKey = (if keeps then draw else s.maskKey) ∧
    t.maskKeyValid = (if keeps then true else s.maskKeyValid) ∧
    t.draws = s.draws + (if draws then 1 else 0) := by
  intro t keeps draws
  obtain ⟨hk, hv, hd⟩ : t.maskKey = _ ∧ t.maskKeyValid = _ ∧ t.draws = _ := frameAndSend_key ..
  rw [hk, hv, hd]
  by_cases hcall : masked = true ∧ p ≠ []
  · obtain ⟨hm, hp⟩ := hcall
    simp only [keeps, draws, hm, hp, ne_eq, not_false_eq_true, true_and, if_true, noteKey_maskKey,
      noteKey_maskKeyValid, noteKey_draws, and_self]
  · have hkeeps : ¬ keeps := fun ⟨hm, hp, _⟩ => hcall ⟨hm, hp⟩
    have hdraws : ¬ draws := fun ⟨hm, hp, _⟩ => hcall ⟨hm, hp⟩
    simp only [hcall, hkeeps, hdraws, if_false, Nat.add_zero, and_self]

/-- Settles O22: the empty frame is its header; any other has the writes of the merge decision, and calls `MaskKey()` if
masked. -/
theorem frameAndSendEffects : Obligations.FrameAndSend := by
  unfold Obligations.FrameAndSend
  intro draw opcode p wb ro fin rsv1 masked cb src s t draws keeps key hdr body merge
  have hkey : key = frameKey draw s := (frameKey_eq draw s).symm
  obtain ⟨hk, hv, hd⟩ : t.maskKey = _ ∧ t.maskKeyValid = _ ∧ t.draws = _ := frameAndSend_registers ..
  refine ⟨?fifo, ?mem, hk, hv, hd, ?frame⟩
  case fifo =>
    have hf : t.fifo = _ := frameAndSend_fifo ..
    rw [hf]
    by_cases hp : p = []
    · subst hp
      rw [sentWrites_nil, if_pos rfl]
    · have hsent : sentKey draw masked p s = if masked then some key else none := by
        rw [sentKey, if_neg hp, hkey]
      have hbody : frameBody p (if masked then some key else none) = body := by
        cases hm : masked <;> simp [frameBody, body, hm]
      rw [sentWrites_nonempty draw opcode ro fin rsv1 masked s hp, if_neg hp, hsent, hbody]
  case mem =>
    have hm : t.mem = _ := frameAndSend_mem ..
    rw [hm]
    cases wb with
    | none => simp
    | some a =>
      have hguard : (masked = true ∧ ro = false ∧ p ≠ [] ∧ s.cfg.mergeThreshold ≤ p.length) ↔
          (p ≠ [] ∧ masked = true ∧ ¬ merge) := by
        cases masked <;> cases ro <;> simp [merge]
      simp only [hguard]
      split
      · next h => simp [body, h, hkey]
      · rfl
  case frame => ext <;> simp [t]

end Sys2Proof.Machine
end

section
/-!
The job a performed command queues: an empty frame's header alone, or one write or two by the merge decision
(spec/41_frame_and_send.md R78, R81 to R84).
-/

namespace Sys2Proof.Machine

section
variable {s : State} {i : Instr}

theorem frameArgs_payload_eq_nil (h : payloadLength i = 0) : (frameArgs s i).payload = [] :=
  List.length_eq_zero_iff.mp ((frameArgs_payload_length s i).trans h)

theorem frameArgs_payload_ne_nil (h : payloadLength i ≠ 0) : (frameArgs s i).payload ≠ [] := by
  rw [← List.length_pos_iff, frameArgs_payload_length]
  exact Nat.pos_of_ne_zero h

/-- The key of a non-empty command's frame is the one the statements name (R71, R85). -/
theorem sentKey_frameArgs (h : payloadLength i ≠ 0) (b : Bool) :
    sentKey (Config.entropy s.draws) (isMasked i) (frameArgs s i).payload { s with firstFragment := b } =
      nextKey s (isMasked i) (payloadLength i) := by
  rw [sentKey, if_neg (frameArgs_payload_ne_nil h), frameKey_firstFragment, nextKey]
  cases isMasked i <;> simp [h]

/-- A performed command that is unmasked or empty leaves the key cache and draws no key (R78, R85). -/
theorem performed_keys_of_no_call (h : isMasked i = false ∨ payloadLength i = 0) :
    (performed s i).draws = s.draws ∧ (performed s i).maskKey = s.maskKey ∧
      (performed s i).maskKeyValid = s.maskKeyValid := by
  have hcall : ¬ ((frameArgs s i).masked = true ∧ (frameArgs s i).payload ≠ []) := by
    rintro ⟨hm, hp⟩
    rcases h with h | h
    · rw [frameArgs_masked, h] at hm
      cases hm
    · exact hp (frameArgs_payload_eq_nil h)
  obtain ⟨hk, hv, hd⟩ : (performed s i).maskKey = _ ∧ (performed s i).maskKeyValid = _ ∧ (performed s i).draws = _ :=
    frameAndSend_key ..
  rw [hk, hv, hd, if_neg hcall]
  exact ⟨rfl, rfl, rfl⟩

/-- A performed command with an empty payload queues the header alone and calls no `MaskKey()` (R78). -/
theorem exec_empty (hp : performs s i) (h : payloadLength i = 0) :
    ∃ t, exec i s = .next t ∧
      t.fifo = s.fifo ++
        [⟨.single (headerByte0 (frameArgs s i).fin false (frameArgs s i).opcode ::
          (if isMasked i then [0x80#8, 0#8, 0#8, 0#8, 0#8] else [0x00#8])), (frameArgs s i).cb, (frameArgs s i).src⟩] ∧
      t.draws = s.draws ∧ t.maskKey = s.maskKey ∧ t.maskKeyValid = s.maskKeyValid := by
  refine ⟨performed s i, exec_of_performs (isCommand_of_performs hp) hp, ?_, performed_keys_of_no_call (.inr h)⟩
  rw [performed_fifo, performedJob, frameArgs_payload_eq_nil h, sentWrites_nil, frameArgs_masked]
  cases isMasked i <;> rfl

/-- A performed command with a payload of `n` bytes queues one write or two by the merge decision (R81 to R84). -/
theorem exec_nonempty {n : Len} (hp : performs s i) (hn : payloadLength i = n.toNat) (h0 : n ≠ 0#64) :
    ∃ t j hdr body, exec i s = .next t ∧ t.fifo = s.fifo ++ [j] ∧
      hdr = packHeader (frameArgs s i).opcode (frameArgs s i).fin (frameArgs s i).rsv1 n
        (nextKey s (isMasked i) n.toNat) ∧
      body = frameBody (frameArgs s i).payload (nextKey s (isMasked i) n.toNat) ∧
      j.src = (frameArgs s i).src ∧
      j.writes = if n.toNat < s.cfg.mergeThreshold ∨ (isMasked i = true ∧ (frameArgs s i).ro = true) then
        .single (hdr ++ body) else .split hdr body := by
  have hne : payloadLength i ≠ 0 := by
    rw [hn]
    exact fun h => h0 (BitVec.eq_of_toNat_eq h)
  refine ⟨performed s i, _, _, _, exec_of_performs (isCommand_of_performs hp) hp, performed_fifo s i, rfl, rfl, rfl, ?_⟩
  rw [performedJob, sentWrites_nonempty _ _ _ _ _ _ _ (frameArgs_payload_ne_nil hne), frameArgs_masked,
    sentKey_frameArgs hne, frameArgs_payload_length, hn, BitVec.ofNat_toNat, BitVec.setWidth_eq]

end

/-- Settles O18: with LEN = 0 any range is admitted, and each of the three commands is one with an empty payload. -/
theorem emptyFrame : Obligations.EmptyFrame := by
  unfold Obligations.EmptyFrame
  intro s fin bin cmp msk ro cb buf hf
  have ha : canAccept s 0#64 buf := ⟨.inl rfl, hf⟩
  have hping : 0x89#8 = headerByte0 true false opPing := by decide
  have hpong : 0x8A#8 = headerByte0 true false opPong := by decide
  rw [hping, hpong]
  exact ⟨exec_empty (i := .send fin bin cmp msk ro cb 0#64 buf) ha rfl, exec_empty (i := .ping msk ro cb 0#64 buf) ha rfl,
    exec_empty (i := .pong msk ro cb 0#64 buf) ha rfl⟩

/-- Settles O23: each of the three commands is one with a payload of LEN bytes. -/
theorem mergeDecisionWrites : Obligations.MergeDecision := by
  unfold Obligations.MergeDecision
  intro s msk ro cb len buf ha h0
  exact ⟨fun fin bin cmp => exec_nonempty (i := .send fin bin cmp msk ro cb len buf) ha rfl h0,
    exec_nonempty (i := .ping msk ro cb len buf) ha rfl h0, exec_nonempty (i := .pong msk ro cb len buf) ha rfl h0⟩

/-- Settles O24: `2 + LEN` does not wrap, so a CLOSE is a command with a payload of that length, and RO = 0. -/
theorem closeMergeDecision : Obligations.CloseMergeDecision := by
  unfold Obligations.CloseMergeDecision
  intro s msk cb code len buf hc
  have ⟨hfit, _, _⟩ := hc
  have hn : (2#64 + len).toNat = 2 + len.toNat := by bv_omega
  have h0 : 2#64 + len ≠ 0#64 := by bv_omega
  obtain ⟨t, j, hdr, body, he, hq, hhdr, hbody, hsrc, hw⟩ :=
    exec_nonempty (i := .close msk cb code len buf) hc hn.symm h0
  rw [hn] at hhdr hbody hw
  refine ⟨t, j, he, hq, hsrc, fun hlt => ⟨hdr ++ body, ?_⟩, fun hle => ⟨body, ?_, ?_⟩⟩
  · rw [hw, if_pos (.inl hlt)]
  · have hsplit : ¬ (2 + len.toNat < s.cfg.mergeThreshold ∨
        (isMasked (.close msk cb code len buf) = true ∧ (frameArgs s (.close msk cb code len buf)).ro = true)) := by
      rintro (h | ⟨-, h⟩)
      · omega
      · cases h
    rw [hw, if_neg hsplit, hhdr]
    rfl
  · rw [hbody, frameBody_length, frameArgs_payload_length]
    rfl

end Sys2Proof.Machine
end

section
/-!
What a command leaves alone, performed or not: the frame of each command is read off these (spec/10_state.md R16,
spec/20_memory.md R36, R38, spec/41_frame_and_send.md R87).
-/

namespace Sys2Proof.Machine

/-- What no command changes: the configuration, the drain position, the ports that DRAIN drives, HOST's and the checker's
side, the turn, and the jobs already queued (R20, R87). -/
structure CommandFrame (s t : State) : Prop where
  cfg : t.cfg = s.cfg
  drainNext : t.drainNext = s.drainNext
  drainBusy : t.drainBusy = s.drainBusy
  completions : t.completions = s.completions
  errorEvents : t.errorEvents = s.errorEvents
  writes : t.writes = s.writes
  answers : t.answers = s.answers
  host : t.host = s.host
  reader : t.reader = s.reader
  steps : t.steps = s.steps
  turn : t.turn = s.turn
  fifo : s.fifo <+: t.fifo

theorem performed_frame (s : State) (i : Instr) : CommandFrame s (performed s i) where
  cfg := performed_cfg s i
  drainNext := performed_drainNext s i
  drainBusy := performed_drainBusy s i
  completions := performed_completions s i
  errorEvents := performed_errorEvents s i
  writes := performed_writes s i
  answers := performed_answers s i
  host := frameAndSend_host ..
  reader := frameAndSend_reader ..
  steps := frameAndSend_steps ..
  turn := frameAndSend_turn ..
  fifo := ⟨_, (performed_fifo s i).symm⟩

section
variable {s t : State} {i : Instr}

theorem exec_command_frame (hi : isCommand i = true) (h : exec i s = .next t) : CommandFrame s t := by
  rcases exec_command_cases hi h with rfl | rfl | ⟨-, rfl⟩
  · exact ⟨rfl, rfl, rfl, rfl, rfl, rfl, rfl, rfl, rfl, rfl, rfl, List.prefix_rfl⟩
  · exact ⟨rfl, rfl, rfl, rfl, rfl, rfl, rfl, rfl, rfl, rfl, rfl, List.prefix_rfl⟩
  · exact performed_frame s i

/-- A command leaves `first_fragment`, or the FIN of a SEND there (R94, R95). -/
theorem exec_command_firstFragment (hi : isCommand i = true) (h : exec i s = .next t) :
    t.firstFragment = s.firstFragment ∨ t.firstFragment = fragmentAfter s i := by
  rcases exec_command_cases hi h with rfl | rfl | ⟨-, rfl⟩
  · exact .inl rfl
  · exact .inl rfl
  · exact .inr (performed_firstFragment s i)

/-- A command that is unmasked or empty leaves the key cache and the draws (R78, R85). -/
theorem exec_command_keys (hi : isCommand i = true) (h : exec i s = .next t)
    (hcall : isMasked i = false ∨ payloadLength i = 0) :
    t.maskKey = s.maskKey ∧ t.maskKeyValid = s.maskKeyValid ∧ t.draws = s.draws := by
  rcases exec_command_cases hi h with rfl | rfl | ⟨-, rfl⟩
  · exact ⟨rfl, rfl, rfl⟩
  · exact ⟨rfl, rfl, rfl⟩
  · obtain ⟨hd, hk, hv⟩ := performed_keys_of_no_call (s := s) hcall
    exact ⟨hk, hv, hd⟩

/-- A command leaves every byte of the memory but those of a buffer it masks in place (R36, R38). -/
theorem exec_command_readByte {a : Nat} (hwf : Memory.wf s.mem = true) (hi : isCommand i = true)
    (h : exec i s = .next t) (ha : ∀ buf, masksInPlace s i buf → a < buf ∨ buf + payloadLength i ≤ a) :
    readByte t.mem a = readByte s.mem a := by
  rcases exec_command_mem hi h with hm | ⟨buf, hm, rfl⟩
  · rw [hm]
  · rw [performed_mem_of_masksInPlace hm]
    refine readByte_memWrite_outside hwf ?_
    rw [mask_length, memRead_length]
    exact ha buf hm

end

/-- Settles O27: each part of the frame is said of every command, and the three commands' own buffer is the one at BUF. -/
theorem sendPingPongFrame : Obligations.SendPingPongFrame := by
  unfold Obligations.SendPingPongFrame
  intro s t i msk ro len buf hi hwf h
  obtain ⟨hc, hm, hlen, hwb, hctl⟩ : isCommand i = true ∧ isMasked i = msk ∧ payloadLength i = len.toNat ∧
      mutableBuffer i = (if ro then none else some buf) ∧
      ((∀ fin bin cmp cb, i ≠ .send fin bin cmp msk ro cb len buf) → fragmentAfter s i = s.firstFragment) := by
    rcases hi with ⟨fin, bin, cmp, cb, rfl⟩ | ⟨cb, rfl⟩ | ⟨cb, rfl⟩
    · exact ⟨rfl, rfl, rfl, by cases ro <;> rfl, fun hne => absurd rfl (hne fin bin cmp cb)⟩
    · exact ⟨rfl, rfl, rfl, by cases ro <;> rfl, fun _ => rfl⟩
    · exact ⟨rfl, rfl, rfl, by cases ro <;> rfl, fun _ => rfl⟩
  have f := exec_command_frame hc h
  refine ⟨f.cfg, f.drainNext, f.drainBusy, f.completions, f.errorEvents, f.writes, f.answers, f.host, f.reader, f.steps,
    f.turn, f.fifo, fun hne => ?fragment, fun hcall => ?keys, fun a ha => ?memory⟩
  case fragment => exact (exec_command_firstFragment hc h).elim id fun he => he.trans (hctl hne)
  case keys =>
    refine exec_command_keys hc h (hcall.imp hm.trans fun h0 => ?_)
    rw [hlen, h0]
    rfl
  case memory =>
    refine exec_command_readByte hwf hc h fun buf' hmasks => ?_
    obtain ⟨hb, hw⟩ := hmasks
    rw [hwb] at hb
    rw [hm, hlen] at hw
    cases ro with
    | true => cases hb
    | false =>
      cases hb
      rw [hlen]
      exact ha hw

end Sys2Proof.Machine
end

section
/-!
The frame a performed command queues, told as a checker tells it: SEND, PING, PONG and CLOSE complete
(spec/42_message_ops.md R96 to R102, spec/41_frame_and_send.md R76).
-/

namespace Sys2Proof.Machine

/-- The frame of a command's operands (R87). An empty frame has no RSV1 (R78). -/
def commandFrame (s : State) (i : Instr) : Frame where
  fin := (frameArgs s i).fin
  rsv1 := (frameArgs s i).rsv1 && !(frameArgs s i).payload.isEmpty
  opcode := (frameArgs s i).opcode
  key := nextKey s (isMasked i) (payloadLength i)
  payload := (frameArgs s i).payload

/-- `FrameAndSend` on a command's operands makes that frame, whatever `first_fragment` became (R87). -/
theorem sentFrame_frameArgs (s : State) (i : Instr) (b : Bool) :
    sentFrame (Config.entropy s.draws) (frameArgs s i).opcode (frameArgs s i).payload (frameArgs s i).fin
      (frameArgs s i).rsv1 (frameArgs s i).masked { s with firstFragment := b } = commandFrame s i := by
  have hkey : sentKey (Config.entropy s.draws) (isMasked i) (frameArgs s i).payload { s with firstFragment := b } =
      nextKey s (isMasked i) (payloadLength i) := by
    by_cases h : payloadLength i = 0
    · cases hm : isMasked i <;> simp [sentKey, nextKey, frameArgs_payload_eq_nil h, h]
    · exact sentKey_frameArgs h b
  rw [sentFrame, frameArgs_masked, hkey]
  rfl

/-- The job a performed command queues carries its frame (R33, R86). -/
@[simp] theorem writeBytes_performedJob (s : State) (i : Instr) :
    writeBytes (performedJob s i).writes = frameWire (commandFrame s i) :=
  (writeBytes_sentWrites ..).trans (congrArg frameWire (sentFrame_frameArgs s i _))

theorem performed_queues (s : State) (i : Instr) : queues s (performed s i) (commandFrame s i) (frameArgs s i).cb :=
  ⟨performedJob s i, performed_fifo s i, rfl, writeBytes_performedJob s i⟩

/-- A command that may be performed completes: its frame is queued, `first_fragment` is `fragmentAfter`, the answer is `OK`
and the port is free (R76 step 5). -/
theorem exec_completes {s : State} {i : Instr} (hp : performs s i) :
    ∃ t, exec i s = .next t ∧ queues s t (commandFrame s i) (frameArgs s i).cb ∧
      t.firstFragment = fragmentAfter s i ∧ t.responses = s.responses ++ [.ok] ∧ t.port = none :=
  ⟨performed s i, exec_of_performs (isCommand_of_performs hp) hp, performed_queues s i, performed_firstFragment s i,
    performed_responses s i, performed_port s i⟩

/-! ### The obligations -/

theorem payloadAt_isEmpty (s : State) (len : Len) (buf : Nat) : (payloadAt s len buf).isEmpty = (len == 0#64) := by
  rw [Bool.eq_iff_iff, List.isEmpty_iff_length_eq_zero, payloadAt_length, beq_iff_eq, ← BitVec.toNat_inj]
  rfl

/-- Settles O15: the payload is empty exactly when LEN = 0, so RSV1 is as the statement has it. -/
theorem sendCompletes : Obligations.SendCompletes := by
  unfold Obligations.SendCompletes
  intro s fin bin cmp msk ro cb len buf ha
  have hrsv1 : (cmp && len != 0#64) = (cmp && !(payloadAt s len buf).isEmpty) := by
    rw [payloadAt_isEmpty]
    rfl
  rw [hrsv1]
  exact exec_completes (i := .send fin bin cmp msk ro cb len buf) ha

/-- Settles O16: PING and PONG are performed with the frame of their operands, and leave `first_fragment`. -/
theorem pingPongComplete : Obligations.PingPongComplete := by
  unfold Obligations.PingPongComplete
  intro s msk ro cb len buf ha
  exact ⟨exec_completes (i := .ping msk ro cb len buf) ha, exec_completes (i := .pong msk ro cb len buf) ha⟩

/-- The two bytes before the reason are the code, big-endian, 1000 when none is supplied (R101, R102). -/
theorem exists_closePayload_eq (code : CloseCode) (reason : List Byte) :
    ∃ hi lo, closePayload code reason = hi :: lo :: reason ∧ (code = .absent → hi = 0x03#8 ∧ lo = 0xE8#8) ∧
      ∀ c, code = .given c true → hi ++ lo = c := by
  cases code with
  | absent => exact ⟨0x03#8, 0xE8#8, rfl, fun _ => ⟨rfl, rfl⟩, nofun⟩
  | given code valid =>
    refine ⟨_, _, rfl, nofun, fun c h => ?_⟩
    cases h
    exact be16_join code

/-- A CLOSE leaves the payload memory: its payload is the block's own, so no buffer is written back (R100). -/
theorem exec_close_mem {s t : State} {msk cb : Bool} {code : CloseCode} {len : Len} {buf : Nat}
    (h : exec (.close msk cb code len buf) s = .next t) : t.mem = s.mem := by
  rcases exec_command_mem rfl h with hm | ⟨_, ⟨hbuf, -⟩, -⟩
  · exact hm
  · cases hbuf

/-- Settles O17: a performed CLOSE queues the frame of its operands, its payload by `exists_closePayload_eq`. -/
theorem closeCompletes : Obligations.CloseCompletes := by
  unfold Obligations.CloseCompletes
  intro s msk cb code len buf hc
  obtain ⟨t, he, hq, hf, hr, hport⟩ := exec_completes (i := .close msk cb code len buf) hc
  obtain ⟨hi, lo, hpay, habsent, hgiven⟩ := exists_closePayload_eq code (payloadAt s len buf)
  have hframe : commandFrame s (.close msk cb code len buf) =
      ⟨true, false, 0x8#4, nextKey s msk (2 + len.toNat), hi :: lo :: memRead s.mem buf len.toNat⟩ :=
    congrArg (Frame.mk true false 0x8#4 (nextKey s msk (2 + len.toNat))) hpay
  exact ⟨t, hi, lo, he, hframe ▸ hq, habsent, hgiven, hf, exec_close_mem he, hr, hport⟩

/-- Settles O28: each part is said of every command, and CLOSE neither writes `first_fragment` nor the memory. -/
theorem closeFrame : Obligations.CloseFrame := by
  unfold Obligations.CloseFrame
  intro s t msk cb code len buf h
  have f := exec_command_frame rfl h
  exact ⟨f.cfg, (exec_command_firstFragment rfl h).elim id id, f.drainNext, f.drainBusy, f.completions, f.errorEvents,
    f.writes, f.answers, f.host, f.reader, f.steps, f.turn, exec_close_mem h, f.fifo,
    fun hm => exec_command_keys rfl h (.inl hm)⟩

/-- An admitted CLOSE with a rejected code is answered before the FIFO is looked at (R76, R113). -/
theorem closeAcceptance_invalidCode {s : State} {len : Len} {buf : Nat} (c : BitVec 16) (hfit : closeLenFits len = true)
    (hr : rangeAdmitted s len buf = true) : closeAcceptance (.given c false) len buf s = .invalidCode := by
  simp [closeAcceptance, hfit, hr]

/-- Settles O19: the verdict is `invalidCode`, whose answer is the only effect. -/
theorem invalidCloseCode : Obligations.InvalidCloseCode := by
  unfold Obligations.InvalidCloseCode
  intro s msk cb c len buf hlen hr
  have hv : verdict s (.close msk cb (.given c false) len buf) = .invalidCode :=
    closeAcceptance_invalidCode c ((closeLenFits_iff len).mpr hlen) ((rangeAdmitted_iff s len buf).mpr hr)
  rw [exec_command rfl, hv]
  rfl

end Sys2Proof.Machine
end

section
/-!
A message in fragments, by induction on its SENDs: `first_fragment` chooses the opcode of each and takes its FIN
(spec/42_message_ops.md R94, R97).
-/

namespace Sys2Proof.Machine

/-- The opcode of a frame stands in bits 3:0 of its first byte, empty or not (R54). -/
theorem frameWire_opcode (f : Frame) : ((frameWire f).headD 0#8).extractLsb' 0 4 = f.opcode := by
  have hb : ∃ rsv1 bs, frameWire f = headerByte0 f.fin rsv1 f.opcode :: bs := by
    unfold frameWire frameHeader
    split
    · exact ⟨_, _, rfl⟩
    · exact ⟨_, _, rfl⟩
  obtain ⟨rsv1, bs, hw⟩ := hb
  rw [hw, List.headD_cons, headerByte0_opcode]

/-- The job of a performed command puts the opcode of its operands on the wire. -/
theorem wireOpcodes_performedJob (s : State) (i : Instr) (js : List Job) :
    wireOpcodes (performedJob s i :: js) = (frameArgs s i).opcode :: wireOpcodes js := by
  rw [wireOpcodes, List.map_cons, writeBytes_performedJob, frameWire_opcode]
  rfl

/-- An unbounded FIFO is never full (R21). -/
theorem fifoFull_of_unbounded {s : State} (h : s.cfg.fifoDepth = .unbounded) : fifoFull s = false := by
  rw [← Bool.not_eq_true, fifoFull_iff]
  rintro ⟨m, hm, -⟩
  cases h.symm.trans hm

theorem execAll_cons_of_performs {s : State} {i : Instr} (hp : performs s i) (is : List Instr) :
    execAll (i :: is) s = execAll is (performed s i) := by
  rw [execAll, exec_of_performs (isCommand_of_performs hp) hp]

/-- The SEND of one fragment, with its FIN (R97). -/
def fragmentSend (fin : Bool) (f : Fragment) : Instr :=
  .send fin f.bin f.cmp f.msk f.ro f.cb f.len f.buf

/-- The SENDs of one message, from either fragmentation state: the first opcode is the one that state chooses, the others
are 0x0, and `MessageStart` is left (R94, R97). -/
theorem execAll_fragmentSends {s : State} {f : Fragment} {fs : List Fragment} (hd : s.cfg.fifoDepth = .unbounded)
    (hr : ∀ g ∈ f :: fs, g.len = 0#64 ∨ g.buf + g.len.toNat ≤ 2 ^ s.cfg.addrW) :
    ∃ t js, execAll (fragmentSends (f :: fs)) s = .next t ∧ t.fifo = s.fifo ++ js ∧ t.firstFragment = true ∧
      wireOpcodes js = sendOpcode s.firstFragment f.bin :: List.replicate fs.length opContinuation := by
  have hp : ∀ fin, performs s (fragmentSend fin f) := fun _ => ⟨hr f List.mem_cons_self, fifoFull_of_unbounded hd⟩
  induction fs generalizing s f with
  | nil =>
    exact ⟨performed s (fragmentSend true f), [performedJob s (fragmentSend true f)],
      execAll_cons_of_performs (hp true) [], performed_fifo s _, performed_firstFragment s _,
      wireOpcodes_performedJob s _ []⟩
  | cons g fs ih =>
    have hcfg : (performed s (fragmentSend false f)).cfg = s.cfg := performed_cfg s _
    have hmid : (performed s (fragmentSend false f)).firstFragment = false := performed_firstFragment s _
    have hd' : (performed s (fragmentSend false f)).cfg.fifoDepth = .unbounded := hcfg ▸ hd
    have hr' : ∀ k ∈ g :: fs, k.len = 0#64 ∨
        k.buf + k.len.toNat ≤ 2 ^ (performed s (fragmentSend false f)).cfg.addrW :=
      fun k hk => hcfg ▸ hr k (List.mem_cons_of_mem f hk)
    obtain ⟨t, js, he, hq, hstart, hops⟩ :=
      ih hd' hr' fun _ => ⟨hr' g List.mem_cons_self, fifoFull_of_unbounded hd'⟩
    refine ⟨t, performedJob s (fragmentSend false f) :: js, (execAll_cons_of_performs (hp false) _).trans he, ?_,
      hstart, ?_⟩
    · rw [hq, performed_fifo, List.append_assoc]
      rfl
    · rw [wireOpcodes_performedJob, hops, hmid]
      rfl

/-- Settles O25: from `MessageStart` the first opcode is the real one of BIN. -/
theorem fragmentedMessage : Obligations.FragmentedMessage := by
  unfold Obligations.FragmentedMessage
  intro s f fs hs hd hr
  have h := execAll_fragmentSends hd hr
  rw [hs] at h
  exact h

end Sys2Proof.Machine
end

section
/-!
Control frames and `first_fragment`: with the other value of it a control command does the same (spec/42_message_ops.md
R95).
-/

namespace Sys2Proof.Machine

/-- The state with another value in `first_fragment`. -/
def setFragment (b : Bool) (s : State) : State :=
  { s with firstFragment := b }

theorem sendFrame_setFragment (b : Bool) (opcode : BitVec 4) (p : List Byte) (wb : Option Nat) (ro fin rsv1 : Bool)
    (key : Option Key) (cb : Bool) (src : Range) (s : State) :
    sendFrame opcode p wb ro fin rsv1 key cb src (setFragment b s) =
      setFragment b (sendFrame opcode p wb ro fin rsv1 key cb src s) := by
  unfold sendFrame setFragment
  dsimp only
  split <;> rfl

/-- `FrameAndSend` is given its opcode, so it neither reads nor writes `first_fragment` (R87). -/
theorem runFrame_setFragment (b : Bool) (draw : Key) (a : FrameArgs) (s : State) :
    runFrame draw a (setFragment b s) = setFragment b (runFrame draw a s) := by
  obtain ⟨opcode, p, wb, ro, fin, rsv1, masked, cb, src⟩ := a
  cases p with
  | nil => rfl
  | cons p ps =>
    cases masked with
    | false => exact sendFrame_setFragment ..
    | true =>
      have hnote : noteKey draw (setFragment b s) = setFragment b (noteKey draw s) := noteKey_setFragment draw s b
      simp only [runFrame, frameAndSend, if_true, hnote, sendFrame_setFragment]
      rfl

theorem accept_setFragment (b : Bool) {v : Verdict} {s p t : State} (h : accept v s p = .next t) :
    accept v (setFragment b s) (setFragment b p) = .next (setFragment b t) := by
  cases v with
  | stuck | hold | invalidCode | perform =>
    cases h
    rfl

/-- A command whose operands, verdict and next `first_fragment` do not depend on `first_fragment`. -/
structure IgnoresFragment (i : Instr) : Prop where
  command : isCommand i = true
  args : ∀ s b, frameArgs (setFragment b s) i = frameArgs s i
  acceptance : ∀ s b, verdict (setFragment b s) i = verdict s i
  after : ∀ s, fragmentAfter s i = s.firstFragment

theorem exec_setFragment {s t : State} {i : Instr} (hi : IgnoresFragment i) (b : Bool) (h : exec i s = .next t) :
    exec i (setFragment b s) = .next (setFragment b t) := by
  have hframed : framed (setFragment b s) i = setFragment b (framed s i) := by
    unfold framed
    rw [hi.args, hi.after, hi.after]
    exact runFrame_setFragment b _ _ s
  rw [exec_command hi.command] at h ⊢
  rw [hi.acceptance, hframed]
  exact accept_setFragment b h

/-- Settles O30: only a SEND's operands read `first_fragment`, and only a SEND writes it. -/
theorem controlIgnoresFragment : Obligations.ControlIgnoresFragment := by
  unfold Obligations.ControlIgnoresFragment
  intro s t b i hi h
  have hig : IgnoresFragment i := by
    rcases hi with ⟨_, _, _, _, _, rfl⟩ | ⟨_, _, _, _, _, rfl⟩ | ⟨_, _, _, _, _, rfl⟩ <;>
      exact ⟨rfl, fun _ _ => rfl, fun _ _ => rfl, fun _ => rfl⟩
  exact ⟨(exec_command_firstFragment hig.command h).elim id fun he => he.trans (hig.after s), exec_setFragment hig b h⟩

end Sys2Proof.Machine
end

section
/-!
The numeric codes of the status ports (spec/60_exceptions.md R106).
-/

namespace Sys2Proof.Machine

/-- Settles O53: each code is `statusCode` at one status. -/
theorem statusCodes : Obligations.StatusCodes := by
  unfold Obligations.StatusCodes
  exact ⟨rfl, rfl, rfl, rfl⟩

end Sys2Proof.Machine
end

section
/-!
When a run is finished (spec/70_reset_and_hazards.md R134).
-/

namespace Sys2Proof.Machine

/-- Settles O55: `finished` tests the three conditions, one conjunct each. -/
theorem finishedRun : Obligations.FinishedRun := by
  unfold Obligations.FinishedRun
  intro s
  simp only [finished, Bool.and_eq_true, Bool.not_eq_true', Option.isNone_iff_eq_none, List.isEmpty_iff, and_assoc]

end Sys2Proof.Machine
end
